-- ==== Sys2Proof/Word.lean ====
section
/-! DEFINITION. The word types of the machine (R10, R11, R30, R102). -/

namespace Sys2Proof

/-- A `u8`: a general register, a memory byte, a timer (R10, R30). -/
abbrev Byte := BitVec 8

/-- A `u16`: I, PC, a stack entry, an opcode (R10, R30, R100). -/
abbrev Word := BitVec 16

/-- A register index, the field X or Y (R101, R104). -/
abbrev Reg := BitVec 4

/-- A count, the field N (R101, R103). -/
abbrev Nibble := BitVec 4

/-- An address immediate, the field NNN (R101, R103). -/
abbrev Addr12 := BitVec 12

end Sys2Proof
end

