-- ==== Sys2Proof/Config.lean ====
section
/-! DEFINITION. What the spec leaves to the implementation (R9): the parameters FONT_BASE, GLYPHS and TIMER_MODE, and
the free draw of CXNN. The parameters are plain data that `State` carries, so that a statement over every state holds
for every value of them; their defaults stand in `Machine/Params.lean`. -/

namespace Sys2Proof

/-- TIMER_MODE (R9, R252, R253): who ticks the timers. -/
inductive TimerMode where
  /-- `step()` ticks once at its start (R252). -/
  | perStep
  /-- The host ticks through the `tick()` port, and `step()` never does (R253). -/
  | externalTick
  deriving DecidableEq, Repr

/-- The parameters of R9. -/
structure Config where
  /-- FONT_BASE: where the glyph table is copied at construction (R44). -/
  fontBase : Nat
  /-- GLYPHS: the 80 bytes of the glyph table (R45). -/
  glyphs : Vector Byte 80
  /-- TIMER_MODE. -/
  timerMode : TimerMode
  deriving DecidableEq, Repr

/-- The range R9 gives FONT_BASE: the table ends at or below PROG_BASE = 0x200. -/
abbrev Config.valid (c : Config) : Prop := c.fontBase + 80 ≤ 0x200

/-- The `n`-th draw of CXNN (R17): a free value. It has no body, so no proof can know one draw or relate two. -/
opaque Config.rand : Nat → Byte

end Sys2Proof
end

