-- ==== Sys2Proof/Machine/Params.lean ====
section
/-! DEFINITION. The parameters the source fixes (R8) and the defaults of the open ones (R9, R44, R45). -/

namespace Sys2Proof.Machine

/-- MEM_SIZE (R8): addresses 0x000 to 0xFFF. -/
def memSize : Nat := 4096

/-- PROG_BASE (R8): where a ROM is loaded and where PC starts. -/
def progBase : Nat := 0x200

/-- ROM_MAX (R8): MEM_SIZE - PROG_BASE. -/
def romMax : Nat := memSize - progBase

/-- STACK_DEPTH (R8). -/
def stackDepth : Nat := 16

/-- DISP_W (R8). -/
def dispW : Nat := 64

/-- DISP_H (R8). -/
def dispH : Nat := 32

/-- DISP_CELLS (R8). -/
def dispCells : Nat := 2048

/-- The number of bytes of the glyph table (R8, R44). -/
def glyphBytes : Nat := 80

/-- The default of FONT_BASE (R9, R44). PRESUMED (log 5): the spec marks it as general knowledge. -/
def defaultFontBase : Nat := 0x050

/-- The default rows of the glyph table, digit by digit (R45). PRESUMED (log 6): the spec marks them as general
knowledge. -/
def defaultGlyphRows : List (List Byte) :=
  [[0xF0, 0x90, 0x90, 0x90, 0xF0], [0x20, 0x60, 0x20, 0x20, 0x70], [0xF0, 0x10, 0xF0, 0x80, 0xF0],
   [0xF0, 0x10, 0xF0, 0x10, 0xF0], [0x90, 0x90, 0xF0, 0x10, 0x10], [0xF0, 0x80, 0xF0, 0x10, 0xF0],
   [0xF0, 0x80, 0xF0, 0x90, 0xF0], [0xF0, 0x10, 0x20, 0x40, 0x40]] ++
  [[0xF0, 0x90, 0xF0, 0x90, 0xF0], [0xF0, 0x90, 0xF0, 0x10, 0xF0], [0xF0, 0x90, 0xF0, 0x90, 0x90],
   [0xE0, 0x90, 0xE0, 0x90, 0xE0], [0xF0, 0x80, 0x80, 0x80, 0xF0], [0xE0, 0x90, 0x90, 0x90, 0xE0],
   [0xF0, 0x80, 0xF0, 0x80, 0xF0], [0xF0, 0x80, 0xF0, 0x80, 0x80]]

/-- The default of GLYPHS (R9, R45): 16 sprites of 5 bytes. -/
def defaultGlyphs : Vector Byte 80 := ⟨defaultGlyphRows.flatten.toArray, by decide⟩

/-- The timer mode `State.reset` carries. DESIGN CHOICE (log 4): R9 gives TIMER_MODE no default; this is the source's
reference behaviour (R252). -/
def defaultTimerMode : TimerMode := .perStep

/-- The parameters `State.reset` carries. -/
def defaultConfig : Config :=
  { fontBase := defaultFontBase, glyphs := defaultGlyphs, timerMode := defaultTimerMode }

end Sys2Proof.Machine
end

