-- ==== Sys2Proof/Machine/State.lean ====
section
/-! DEFINITION. The state of the machine (R30), the results of a step (R61, R261, R262) and the state after reset
(R53, R290). -/

namespace Sys2Proof.Machine

/-- The FX0A wait state (R49). -/
inductive Wait where
  | notWaiting
  | waiting
  deriving DecidableEq, Repr

/-- The index space an OutOfBoundsAccess is about (R262). -/
inductive Space where
  | fetch
  | memory
  | keypad
  | display
  deriving DecidableEq, Repr

/-- The faults of the spec (R261, codes 3 to 5). A step that raises one answers a NEXT state, the one R131 and R137
give, with the fault in `State.result` and `State.faultMark` set (log 1): the block does not stop, the host may go on
(R260, R266). No meaning and no step answers `Host.Outcome.fault`. -/
inductive Fault where
  /-- Raised by 2NNN with 16 entries on the stack (R153). Safe: the state after it is the one R137 gives. -/
  | stackOverflow
  /-- Raised by 00EE with an empty stack (R150). Safe: the state after it is the one R137 gives. -/
  | stackUnderflow
  /-- Raised by the fetch (R131), DXYN (R221), FX33, FX55, FX65 (R203 to R205), EX9E and EXA1 (R240), and answered by
  the `pixel` port (R65), with the space and the index of R262. Safe: the state after it is the one R131 and R137 give. -/
  | outOfBoundsAccess (space : Space) (addr : Nat)
  deriving DecidableEq, Repr

/-- The conditions of the spec (R261, codes 1 and 2): the step completes as a no-op that reports (R138). -/
inductive Condition where
  /-- An Unknown word (R113). -/
  | unknownOpcode
  /-- 0NNN (R151). -/
  | unimplemented
  deriving DecidableEq, Repr

/-- Reasons the model refuses. No instruction meets one: they are the instruction table's placeholder and the refusals
the spec gives the host's ports. -/
inductive Refusal where
  /-- An instruction whose meaning is not written; no arm of `exec` answers it now. Safe: nothing is claimed. -/
  | notModelled (mnemonic : String)
  /-- The `set_key` port with a key number above 15 (R63, U24). Safe: the port changes nothing. -/
  | keyOutOfRange (k : Nat)
  /-- The `tick` port in `per_step` mode, where it does not exist (R62). Safe: the spec gives no such call. -/
  | noTickPort
  /-- The `load` port outside the construction state (R294, U22). Safe: the spec asks a model to refuse it. -/
  | loadNotAtConstruction
  deriving DecidableEq, Repr

/-- The codes of R261. -/
inductive Code where
  | ok
  | unknownOpcode
  | unimplemented
  | stackOverflow
  | stackUnderflow
  | outOfBoundsAccess
  | romTooLarge
  | romUnreadable
  deriving DecidableEq, Repr

/-- What `step()` returns (R61), with the pc and opcode of R262's record; the opcode is `none` for a fetch fault. -/
inductive StepResult where
  | ok
  | cond (c : Condition) (pc : Word) (opcode : Word)
  | fault (f : Fault) (pc : Word) (opcode : Option Word)
  deriving DecidableEq, Repr

/-- Memory: the bytes that differ from what they hold after reset, by rising address (`Memory.wf`). -/
abbrev Memory := List Host.Cell

/-- The machine. The first eleven fields are the tuple S of R30, `cfg` holds the parameters of R9, and the last four
are the model's own. -/
structure State where
  /-- V0..VF (R31). -/
  v : Vector Byte 16
  /-- The index register (R35). -/
  i : Word
  /-- The program counter (R37). -/
  pc : Word
  /-- The call stack, the most recently pushed entry first (R39; log 14). -/
  stack : List Word
  /-- The delay timer (R41). -/
  dt : Byte
  /-- The sound timer (R41). -/
  st : Byte
  /-- Memory (R43, R70). -/
  mem : Memory
  /-- The framebuffer; cell `x + 64*y` is bit `x + 64*y` (R46). -/
  fb : BitVec 2048
  /-- The redraw-pending flag (R47). -/
  redraw : Bool
  /-- The keypad; true is pressed (R48). -/
  key : Vector Bool 16
  /-- The FX0A wait state (R49). -/
  wait : Wait
  /-- The parameters of R9; no step and no port changes them (log 4). -/
  cfg : Config
  /-- The model's own: the result of the last step, `none` before the first (R61, D31; log 2). -/
  result : Option StepResult
  /-- The model's own: the mark that R268 asks a model to set on every fault and never to clear (log 2). -/
  faultMark : Bool
  /-- The model's own: how many draws CXNN has taken (R17; log 3). -/
  draws : Nat
  /-- The model's own: whether `load` is still defined (R294; log 9). -/
  loadOpen : Bool
  deriving DecidableEq, Repr

/-- What an instruction or a step answers. -/
abbrev Answer := Host.Outcome State Fault Refusal

/-- The construction state for given parameters (R53, R290). Memory lists nothing: an unlisted byte reads as the
contents R53 gives it (`initByte`). -/
def State.resetWith (c : Config) : State where
  v := Vector.replicate 16 0
  i := 0
  pc := BitVec.ofNat 16 progBase
  stack := []
  dt := 0
  st := 0
  mem := []
  fb := 0
  redraw := false
  key := Vector.replicate 16 false
  wait := .notWaiting
  cfg := c
  result := none
  faultMark := false
  draws := 0
  loadOpen := true

/-- The construction state with the default parameters. -/
def State.reset : State := State.resetWith defaultConfig

end Sys2Proof.Machine
end

