-- ==== Sys2Proof/Machine/Flags.lean ====
section
/-! DEFINITION. Every value a flag writer puts into VF (R32, R182, R201, R223). -/

namespace Sys2Proof.Machine

/-- A truth value as VF holds it: 1 or 0 (R32). -/
def flagOf (b : Bool) : Byte := if b then 1 else 0

/-- 8XY4: the unsigned carry of the exact sum (R176). -/
def carryFlag (a b : Byte) : Byte := flagOf (decide (a.toNat + b.toNat > 255))

/-- 8XY5 and 8XY7: 1 when the minuend is at least the subtrahend (R177, R179). -/
def notBorrowFlag (minuend subtrahend : Byte) : Byte := flagOf (decide (minuend.toNat ≥ subtrahend.toNat))

/-- 8XY6: bit 0, the bit shifted out (R178). -/
def lowBitFlag (a : Byte) : Byte := flagOf (a.getLsbD 0)

/-- 8XYE: bit 7, the bit shifted out (R180). -/
def highBitFlag (a : Byte) : Byte := flagOf (a.getLsbD 7)

/-- FX1E: 1 when the exact sum exceeds 0xFFF (R201). -/
def rangeFlag (i : Word) (v : Byte) : Byte := flagOf (decide (i.toNat + v.toNat > 0x0FFF))

/-- DXYN: 1 when some touched cell was set (R223). -/
def collisionFlag (hit : Bool) : Byte := flagOf hit

end Sys2Proof.Machine
end

