-- ==== Sys2Proof/Syntax.lean ====
section
/-! DEFINITION. The instructions: one constructor per row of spec/opcode_table.json, named by the row's pattern
(`op8XY4` is the row 8XY4), with the fields of R101 the pattern names. -/

namespace Sys2Proof

/-- The 35 instructions of R112, in the table's order; the mnemonic of R116 stands beside each. -/
inductive Instr where
  /-- CLS (R220). -/
  | op00E0
  /-- RET (R150). -/
  | op00EE
  /-- SYS addr (R151). -/
  | op0NNN (nnn : Addr12)
  /-- JP addr (R152). -/
  | op1NNN (nnn : Addr12)
  /-- CALL addr (R153). -/
  | op2NNN (nnn : Addr12)
  /-- SE Vx, byte (R155). -/
  | op3XNN (x : Reg) (nn : Byte)
  /-- SNE Vx, byte (R156). -/
  | op4XNN (x : Reg) (nn : Byte)
  /-- SE Vx, Vy (R157). -/
  | op5XY0 (x y : Reg)
  /-- LD Vx, byte (R170). -/
  | op6XNN (x : Reg) (nn : Byte)
  /-- ADD Vx, byte (R171). -/
  | op7XNN (x : Reg) (nn : Byte)
  /-- LD Vx, Vy (R172). -/
  | op8XY0 (x y : Reg)
  /-- OR Vx, Vy (R173). -/
  | op8XY1 (x y : Reg)
  /-- AND Vx, Vy (R174). -/
  | op8XY2 (x y : Reg)
  /-- XOR Vx, Vy (R175). -/
  | op8XY3 (x y : Reg)
  /-- ADD Vx, Vy (R176). -/
  | op8XY4 (x y : Reg)
  /-- SUB Vx, Vy (R177). -/
  | op8XY5 (x y : Reg)
  /-- SHR Vx; the Y field is kept but not read (R104, R178). -/
  | op8XY6 (x y : Reg)
  /-- SUBN Vx, Vy (R179). -/
  | op8XY7 (x y : Reg)
  /-- SHL Vx; the Y field is kept but not read (R104, R180). -/
  | op8XYE (x y : Reg)
  /-- SNE Vx, Vy (R158). -/
  | op9XY0 (x y : Reg)
  /-- LD I, addr (R200). -/
  | opANNN (nnn : Addr12)
  /-- JP V0, addr (R154). -/
  | opBNNN (nnn : Addr12)
  /-- RND Vx, byte (R181). -/
  | opCXNN (x : Reg) (nn : Byte)
  /-- DRW Vx, Vy, nibble (R221). -/
  | opDXYN (x y : Reg) (n : Nibble)
  /-- SKP Vx (R241). -/
  | opEX9E (x : Reg)
  /-- SKNP Vx (R242). -/
  | opEXA1 (x : Reg)
  /-- LD Vx, DT (R243). -/
  | opFX07 (x : Reg)
  /-- LD Vx, K (R245). -/
  | opFX0A (x : Reg)
  /-- LD DT, Vx (R247). -/
  | opFX15 (x : Reg)
  /-- LD ST, Vx (R248). -/
  | opFX18 (x : Reg)
  /-- ADD I, Vx (R201). -/
  | opFX1E (x : Reg)
  /-- LD F, Vx (R202). -/
  | opFX29 (x : Reg)
  /-- LD B, Vx (R203). -/
  | opFX33 (x : Reg)
  /-- LD [I], Vx (R204). -/
  | opFX55 (x : Reg)
  /-- LD Vx, [I] (R205). -/
  | opFX65 (x : Reg)
  deriving DecidableEq, Repr

end Sys2Proof
end

