-- ==== Sys2Proof/Decode.lean ====
section
/-! DEFINITION. Decoding (R100 to R113) and, after it, the encoder written from the same formats (R102). -/

namespace Sys2Proof

/-- The class field `op[15:12]` (R101). -/
def fieldClass (op : Word) : BitVec 4 := op.extractLsb' 12 4

/-- The field X, `op[11:8]` (R101). -/
def fieldX (op : Word) : Reg := op.extractLsb' 8 4

/-- The field Y, `op[7:4]` (R101). -/
def fieldY (op : Word) : Reg := op.extractLsb' 4 4

/-- The field N, `op[3:0]` (R101). -/
def fieldN (op : Word) : Nibble := op.extractLsb' 0 4

/-- The field NN, `op[7:0]` (R101). -/
def fieldNN (op : Word) : Byte := op.extractLsb' 0 8

/-- The field NNN, `op[11:0]` (R101). -/
def fieldNNN (op : Word) : Addr12 := op.extractLsb' 0 12

/-- Class 0x0 (R106): 00E0 and 00EE first, every other word is 0NNN. -/
def decodeClass0 (op : Word) : Instr :=
  if op = 0x00E0#16 then .op00E0
  else if op = 0x00EE#16 then .op00EE
  else .op0NNN (fieldNNN op)

/-- Class 0x8, by N (R109). -/
def decodeClass8 (x y : Reg) (n : Nibble) : Option Instr :=
  match n with
  | 0x0#4 => some (.op8XY0 x y)
  | 0x1#4 => some (.op8XY1 x y)
  | 0x2#4 => some (.op8XY2 x y)
  | 0x3#4 => some (.op8XY3 x y)
  | 0x4#4 => some (.op8XY4 x y)
  | 0x5#4 => some (.op8XY5 x y)
  | 0x6#4 => some (.op8XY6 x y)
  | 0x7#4 => some (.op8XY7 x y)
  | 0xE#4 => some (.op8XYE x y)
  | _ => none

/-- Class 0xE, by NN (R110). -/
def decodeClassE (x : Reg) (nn : Byte) : Option Instr :=
  match nn with
  | 0x9E#8 => some (.opEX9E x)
  | 0xA1#8 => some (.opEXA1 x)
  | _ => none

/-- Class 0xF, by NN (R111). -/
def decodeClassF (x : Reg) (nn : Byte) : Option Instr :=
  match nn with
  | 0x07#8 => some (.opFX07 x)
  | 0x0A#8 => some (.opFX0A x)
  | 0x15#8 => some (.opFX15 x)
  | 0x18#8 => some (.opFX18 x)
  | 0x1E#8 => some (.opFX1E x)
  | 0x29#8 => some (.opFX29 x)
  | 0x33#8 => some (.opFX33 x)
  | 0x55#8 => some (.opFX55 x)
  | 0x65#8 => some (.opFX65 x)
  | _ => none

/-- The instruction of a 16-bit word; `none` is the spec's Unknown (R105 to R111). -/
def decodeWord (op : Word) : Option Instr :=
  match fieldClass op with
  | 0x0#4 => some (decodeClass0 op)
  | 0x1#4 => some (.op1NNN (fieldNNN op))
  | 0x2#4 => some (.op2NNN (fieldNNN op))
  | 0x3#4 => some (.op3XNN (fieldX op) (fieldNN op))
  | 0x4#4 => some (.op4XNN (fieldX op) (fieldNN op))
  | 0x5#4 => if fieldN op = 0#4 then some (.op5XY0 (fieldX op) (fieldY op)) else none
  | 0x6#4 => some (.op6XNN (fieldX op) (fieldNN op))
  | 0x7#4 => some (.op7XNN (fieldX op) (fieldNN op))
  | 0x8#4 => decodeClass8 (fieldX op) (fieldY op) (fieldN op)
  | 0x9#4 => if fieldN op = 0#4 then some (.op9XY0 (fieldX op) (fieldY op)) else none
  | 0xA#4 => some (.opANNN (fieldNNN op))
  | 0xB#4 => some (.opBNNN (fieldNNN op))
  | 0xC#4 => some (.opCXNN (fieldX op) (fieldNN op))
  | 0xD#4 => some (.opDXYN (fieldX op) (fieldY op) (fieldN op))
  | 0xE#4 => decodeClassE (fieldX op) (fieldNN op)
  | _ => decodeClassF (fieldX op) (fieldNN op)

/-- What a run of bytes decodes to. -/
inductive Decoded where
  /-- An instruction, and the bytes after it. -/
  | instr (i : Instr) (rest : List Byte)
  /-- A word that matches no instruction (R105, R113), with the word. -/
  | unknown (op : Word)
  /-- Fewer than the two bytes of an instruction (R100). -/
  | truncated
  deriving DecidableEq, Repr

/-- The big-endian combine of the fetch (R74): the byte at the lower address is bits 15:8. -/
def combine (hi lo : Byte) : Word := hi ++ lo

/-- Decoding of bytes as memory holds them (R74, R100), total on any bytes. -/
def decode : List Byte → Decoded
  | hi :: lo :: rest =>
    match decodeWord (combine hi lo) with
    | some i => .instr i rest
    | none => .unknown (combine hi lo)
  | _ => .truncated

/-- The word of an instruction, by the formats of R102. -/
def encode : Instr → Word
  | .op00E0 => 0x00E0#16
  | .op00EE => 0x00EE#16
  | .op0NNN nnn => 0x0#4 ++ nnn
  | .op1NNN nnn => 0x1#4 ++ nnn
  | .op2NNN nnn => 0x2#4 ++ nnn
  | .op3XNN x nn => 0x3#4 ++ x ++ nn
  | .op4XNN x nn => 0x4#4 ++ x ++ nn
  | .op5XY0 x y => 0x5#4 ++ x ++ y ++ 0x0#4
  | .op6XNN x nn => 0x6#4 ++ x ++ nn
  | .op7XNN x nn => 0x7#4 ++ x ++ nn
  | .op8XY0 x y => 0x8#4 ++ x ++ y ++ 0x0#4
  | .op8XY1 x y => 0x8#4 ++ x ++ y ++ 0x1#4
  | .op8XY2 x y => 0x8#4 ++ x ++ y ++ 0x2#4
  | .op8XY3 x y => 0x8#4 ++ x ++ y ++ 0x3#4
  | .op8XY4 x y => 0x8#4 ++ x ++ y ++ 0x4#4
  | .op8XY5 x y => 0x8#4 ++ x ++ y ++ 0x5#4
  | .op8XY6 x y => 0x8#4 ++ x ++ y ++ 0x6#4
  | .op8XY7 x y => 0x8#4 ++ x ++ y ++ 0x7#4
  | .op8XYE x y => 0x8#4 ++ x ++ y ++ 0xE#4
  | .op9XY0 x y => 0x9#4 ++ x ++ y ++ 0x0#4
  | .opANNN nnn => 0xA#4 ++ nnn
  | .opBNNN nnn => 0xB#4 ++ nnn
  | .opCXNN x nn => 0xC#4 ++ x ++ nn
  | .opDXYN x y n => 0xD#4 ++ x ++ y ++ n
  | .opEX9E x => 0xE#4 ++ x ++ 0x9E#8
  | .opEXA1 x => 0xE#4 ++ x ++ 0xA1#8
  | .opFX07 x => 0xF#4 ++ x ++ 0x07#8
  | .opFX0A x => 0xF#4 ++ x ++ 0x0A#8
  | .opFX15 x => 0xF#4 ++ x ++ 0x15#8
  | .opFX18 x => 0xF#4 ++ x ++ 0x18#8
  | .opFX1E x => 0xF#4 ++ x ++ 0x1E#8
  | .opFX29 x => 0xF#4 ++ x ++ 0x29#8
  | .opFX33 x => 0xF#4 ++ x ++ 0x33#8
  | .opFX55 x => 0xF#4 ++ x ++ 0x55#8
  | .opFX65 x => 0xF#4 ++ x ++ 0x65#8

/-- The high byte of a word, the one at the lower address (R74). -/
def highByte (op : Word) : Byte := op.extractLsb' 8 8

/-- The low byte of a word, the one at the higher address (R74). -/
def lowByte (op : Word) : Byte := op.extractLsb' 0 8

/-- The two bytes of an instruction as memory holds them (R74, R100). -/
def encodeBytes (i : Instr) : List Byte := [highByte (encode i), lowByte (encode i)]

/-- The word of which spec/opcode_table.json gives the low `nbits` bits; any bit above them is 0. -/
def tableWord (nbits w : Nat) : Word := BitVec.ofNat 16 (w % 2 ^ nbits)

/-- The instruction the decoder reads from a word numbered as the opcode table numbers it (bit 0 the least
significant bit of the one 16-bit word), laid out in memory order and decoded from bytes. -/
def decodeTableWord (nbits w : Nat) : Option Instr :=
  match decode [highByte (tableWord nbits w), lowByte (tableWord nbits w)] with
  | .instr i _ => some i
  | .unknown _ => none
  | .truncated => none

end Sys2Proof
end

