-- ==== Sys2Proof/Machine/Operands.lean ====
section
/-! DEFINITION. Every operand form the instructions have (R34, R103, R104, R206): registers, blocks of registers,
immediates and data addresses. -/

namespace Sys2Proof.Machine

/-- The index of VF (R13). -/
def regF : Reg := 0xF

/-- `V[r]` (R13). -/
def State.getV (s : State) (r : Reg) : Byte := s.v[r.toNat]'r.isLt

/-- `V[r] <- b` (R13). -/
def State.setV (s : State) (r : Reg) (b : Byte) : State := { s with v := s.v.set r.toNat b r.isLt }

/-- `V[x] <- r`, then `VF <- flag`: the write order of 8XY1 to 8XY3 (R34), the later standing (R16). -/
def State.setThenFlag (s : State) (x : Reg) (r flag : Byte) : State := (s.setV x r).setV regF flag

/-- `VF <- flag`, then `V[x] <- r`: the write order of 8XY4 to 8XYE (R34), the later standing (R16). -/
def State.flagThenSet (s : State) (x : Reg) (r flag : Byte) : State := (s.setV regF flag).setV x r

/-- The first `n` registers, V0 first: the block FX55 stores (R104, R204). -/
def State.blockV (s : State) (n : Nat) : List Byte := s.v.toList.take n

/-- Registers from index `k` on take the listed bytes in turn (R205); bytes past VF are dropped. -/
def fillV (v : Vector Byte 16) (k : Nat) : List Byte → Vector Byte 16
  | [] => v
  | b :: bs => fillV (v.setIfInBounds k b) (k + 1) bs

/-- `V[k] <- bytes[k]` for every listed byte: the block FX65 loads (R205). -/
def State.loadV (s : State) (bytes : List Byte) : State := { s with v := fillV s.v 0 bytes }

/-- NNN as PC and I take it: zero-extended (R103). -/
def addrNNN (nnn : Addr12) : Word := nnn.setWidth 16

/-- NNN plus V0, the target of BNNN (R154). -/
def State.addrNNNPlusV0 (s : State) (nnn : Addr12) : Word :=
  BitVec.ofNat 16 (nnn.toNat + (s.getV 0).toNat)

/-- The data address I + 0, as the exact number the bounds check sees (R73, R206). -/
def State.addrI (s : State) : Nat := s.i.toNat

/-- The number of registers FX55 and FX65 move: X + 1 (R104). -/
def blockSize (x : Reg) : Nat := x.toNat + 1

/-- I after FX55 and FX65: past the last byte, reduced to 16 bits (R204, R205). -/
def State.iPastBlock (s : State) (x : Reg) : Word := BitVec.ofNat 16 (s.i.toNat + blockSize x)

/-- The address of the glyph of `d`, unmasked (R202). -/
def State.glyphAddr (s : State) (d : Byte) : Word := BitVec.ofNat 16 (5 * d.toNat + s.cfg.fontBase)

/-- The decimal digits of a byte, hundreds first (R203). -/
def digits (b : Byte) : List Byte :=
  [BitVec.ofNat 8 (b.toNat / 100), BitVec.ofNat 8 (b.toNat / 10 % 10), BitVec.ofNat 8 (b.toNat % 10)]

end Sys2Proof.Machine
end

