-- ==== Sys2Proof/Machine/Ops.lean ====
section
/-! DEFINITION. The operations the meanings share: memory and its bounds check (R14, R73), the stack (R40), the tick
(R251), the PC advance and the skip (R38), and how an instruction ends: completing (R136), reporting a condition (R138)
or raising a fault (R137). -/

namespace Sys2Proof.Machine

/-- What a byte holds after construction: the glyph table at FONT_BASE, zero elsewhere (R53, R290). It is also what
an address that memory does not list reads as (log 8). -/
def initByte (c : Config) (a : Nat) : Byte :=
  if h : c.fontBase ≤ a ∧ a < c.fontBase + 80 then c.glyphs[a - c.fontBase]'(by omega) else 0

/-- The byte at an address (R78). -/
def Memory.read (c : Config) : Memory → Nat → Byte
  | [], a => initByte c a
  | (k, b) :: m, a => if a = k then b else Memory.read c m a

/-- A byte written (R78), keeping the canonical form. -/
def Memory.write (c : Config) : Memory → Nat → Byte → Memory
  | [], a, b => if b = initByte c a then [] else [(a, b)]
  | (k, d) :: m, a, b =>
    if a < k then (if b = initByte c a then (k, d) :: m else (a, b) :: (k, d) :: m)
    else if a = k then (if b = initByte c a then m else (a, b) :: m)
    else (k, d) :: Memory.write c m a b

/-- The canonical form: addresses strictly rising and inside memory, no byte listed that is what the address reads as
unlisted. -/
abbrev Memory.wf (c : Config) (m : Memory) : Prop :=
  m.Pairwise (fun p q => p.1 < q.1) ∧ ∀ p ∈ m, p.1 < memSize ∧ p.2 ≠ initByte c p.1

/-- `n` bytes from an address up. -/
def Memory.readBytes (c : Config) (m : Memory) (a : Nat) : Nat → List Byte
  | 0 => []
  | n + 1 => Memory.read c m a :: Memory.readBytes c m (a + 1) n

/-- Bytes written from an address up, in order (R204). -/
def Memory.writeBytes (c : Config) (m : Memory) (a : Nat) : List Byte → Memory
  | [] => m
  | b :: bs => Memory.writeBytes c (Memory.write c m a b) (a + 1) bs

/-- The model's read of one byte of a state. -/
def State.byteAt (s : State) (a : Nat) : Byte := Memory.read s.cfg s.mem a

/-- The bounds check on `n` bytes at an exact address (R14, R73): nothing is checked of an access of no byte (R225),
and the index reported is the lowest address above 0xFFF (R262). -/
def boundsFault (sp : Space) (a n : Nat) : Option Fault :=
  if n ≠ 0 ∧ a + n > memSize then some (.outOfBoundsAccess sp (max a memSize)) else none

/-- A checked read of `n` bytes (R14). -/
def State.memRead (s : State) (a n : Nat) : Except Fault (List Byte) :=
  match boundsFault .memory a n with
  | some f => .error f
  | none => .ok (Memory.readBytes s.cfg s.mem a n)

/-- A checked write of bytes: all of them or none (R14, R77). -/
def State.memWrite (s : State) (a : Nat) (bytes : List Byte) : Except Fault State :=
  match boundsFault .memory a bytes.length with
  | some f => .error f
  | none => .ok { s with mem := Memory.writeBytes s.cfg s.mem a bytes }

/-- `push(v)` (R40). -/
def State.push (s : State) (w : Word) : Except Fault State :=
  if s.stack.length ≥ stackDepth then .error .stackOverflow else .ok { s with stack := w :: s.stack }

/-- `pop()` (R40): the entry and the state without it. -/
def State.pop (s : State) : Except Fault (Word × State) :=
  match s.stack with
  | [] => .error .stackUnderflow
  | w :: ws => .ok (w, { s with stack := ws })

/-- One timer's decrement: by one while nonzero, never below 0 (R250). -/
def countDown (t : Byte) : Byte := if t = 0 then 0 else t - 1

/-- One tick: both timers, each on its own (R251). -/
def State.tick (s : State) : State := { s with dt := countDown s.dt, st := countDown s.st }

/-- The PC advance of a fetch (R132), modulo 2^16 (R38). -/
def State.advance (s : State) : State := { s with pc := s.pc + 2 }

/-- The PC taken back to the instruction itself: FX0A's rewind (R245). -/
def State.rewind (s : State) : State := { s with pc := s.pc - 2 }

/-- `PC <- target` (R13). -/
def State.jump (s : State) (target : Word) : State := { s with pc := target }

/-- A skip: two more bytes when the condition holds (R132, R160). -/
def State.skipIf (s : State) (b : Bool) : State := { s with pc := if b then s.pc + 2 else s.pc }

/-- One draw of `rand` and the state that has taken it (R17). The byte is a free value (log 3). -/
def State.draw (s : State) : Byte × State := (Config.rand s.draws, { s with draws := s.draws + 1 })

/-- The address the instruction under way was fetched from: PC holds pc0 + 2 (R38, R132). -/
def State.pc0 (s : State) : Word := s.pc - 2

/-- An instruction completes: the step returns Ok (R136). -/
def complete (s : State) : Answer := .next { s with result := some .ok }

/-- An instruction reports a condition and is otherwise a no-op (R15, R138). -/
def report (c : Condition) (op : Word) (s : State) : Answer :=
  .next { s with result := some (.cond c s.pc0 op) }

/-- Taking a fault (R15, R137, R265): nothing of the instruction is written and PC keeps the fetch's advance; the
result carries the fault, pc0 and the opcode (R262), and the mark of R268 is set. -/
def raise (f : Fault) (op : Word) (s : State) : Answer :=
  .next { s with result := some (.fault f s.pc0 (some op)), faultMark := true }

/-- Taking a fault of the fetch (R131, R137): PC is not advanced and there is no opcode. -/
def raiseAtFetch (f : Fault) (s : State) : Answer :=
  .next { s with result := some (.fault f s.pc none), faultMark := true }

/-- The end of an instruction that may raise: its writes are kept when it succeeds and none is when it raises (R135).
`s` is the state the instruction began in. -/
def finish (op : Word) (s : State) : Except Fault State → Answer
  | .ok t => complete t
  | .error f => raise f op s

end Sys2Proof.Machine
end

