-- ==== Sys2Proof/Machine/Alu.lean ====
section
/-! DEFINITION. Register loads, arithmetic, logic, shifts and the random byte (R170 to R183). Every operand is read
from `s`, the state the instruction began in (R16). -/

namespace Sys2Proof.Machine

/-- 6XNN (R170): VX <- NN. -/
def exec6XNN (x : Reg) (nn : Byte) (s : State) : Answer :=
  complete (s.setV x nn)

/-- 7XNN (R171): VX <- VX + NN modulo 256, VF untouched. -/
def exec7XNN (x : Reg) (nn : Byte) (s : State) : Answer :=
  complete (s.setV x (s.getV x + nn))

/-- 8XY0 (R172): VX <- VY. -/
def exec8XY0 (x y : Reg) (s : State) : Answer :=
  complete (s.setV x (s.getV y))

/-- 8XY1 (R173): OR, then VF <- 0. -/
def exec8XY1 (x y : Reg) (s : State) : Answer :=
  complete (s.setThenFlag x (s.getV x ||| s.getV y) 0)

/-- 8XY2 (R174): AND, then VF <- 0. -/
def exec8XY2 (x y : Reg) (s : State) : Answer :=
  complete (s.setThenFlag x (s.getV x &&& s.getV y) 0)

/-- 8XY3 (R175): XOR, then VF <- 0. -/
def exec8XY3 (x y : Reg) (s : State) : Answer :=
  complete (s.setThenFlag x (s.getV x ^^^ s.getV y) 0)

/-- 8XY4 (R176): VF <- carry, then VX <- the sum modulo 256. -/
def exec8XY4 (x y : Reg) (s : State) : Answer :=
  complete (s.flagThenSet x (s.getV x + s.getV y) (carryFlag (s.getV x) (s.getV y)))

/-- 8XY5 (R177): VF <- not borrow, then VX <- VX - VY modulo 256. -/
def exec8XY5 (x y : Reg) (s : State) : Answer :=
  complete (s.flagThenSet x (s.getV x - s.getV y) (notBorrowFlag (s.getV x) (s.getV y)))

/-- 8XY6 (R178): VF <- bit 0 of VX, then VX <- VX shifted right by one; VY is not read. -/
def exec8XY6 (x _y : Reg) (s : State) : Answer :=
  complete (s.flagThenSet x (s.getV x >>> 1) (lowBitFlag (s.getV x)))

/-- 8XY7 (R179): VF <- not borrow, then VX <- VY - VX modulo 256. -/
def exec8XY7 (x y : Reg) (s : State) : Answer :=
  complete (s.flagThenSet x (s.getV y - s.getV x) (notBorrowFlag (s.getV y) (s.getV x)))

/-- 8XYE (R180): VF <- bit 7 of VX, then VX <- VX shifted left by one; VY is not read. -/
def exec8XYE (x _y : Reg) (s : State) : Answer :=
  complete (s.flagThenSet x (s.getV x <<< 1) (highBitFlag (s.getV x)))

/-- CXNN (R181): VX <- a draw AND NN. -/
def execCXNN (x : Reg) (nn : Byte) (s : State) : Answer :=
  complete (s.draw.2.setV x (s.draw.1 &&& nn))

end Sys2Proof.Machine
end

