-- ==== Sys2Proof/Machine/Control.lean ====
section
/-! DEFINITION. Control flow (R150 to R158). `s.pc` is pc0 + 2 on entry (R132). -/

namespace Sys2Proof.Machine

/-- 00EE (R150): return. -/
def exec00EE (s : State) : Answer :=
  finish (encode .op00EE) s (s.pop.map fun p => p.2.jump p.1)

/-- 0NNN (R151): a no-op that reports Unimplemented. -/
def exec0NNN (nnn : Addr12) (s : State) : Answer :=
  report .unimplemented (encode (.op0NNN nnn)) s

/-- 1NNN (R152): jump. -/
def exec1NNN (nnn : Addr12) (s : State) : Answer :=
  complete (s.jump (addrNNN nnn))

/-- 2NNN (R153): push the return address, then jump. -/
def exec2NNN (nnn : Addr12) (s : State) : Answer :=
  finish (encode (.op2NNN nnn)) s ((s.push s.pc).map fun t => t.jump (addrNNN nnn))

/-- BNNN (R154): jump to NNN + V0. -/
def execBNNN (nnn : Addr12) (s : State) : Answer :=
  complete (s.jump (s.addrNNNPlusV0 nnn))

/-- 3XNN (R155): skip if VX = NN. -/
def exec3XNN (x : Reg) (nn : Byte) (s : State) : Answer :=
  complete (s.skipIf (s.getV x == nn))

/-- 4XNN (R156): skip if VX != NN. -/
def exec4XNN (x : Reg) (nn : Byte) (s : State) : Answer :=
  complete (s.skipIf (s.getV x != nn))

/-- 5XY0 (R157): skip if VX = VY. -/
def exec5XY0 (x y : Reg) (s : State) : Answer :=
  complete (s.skipIf (s.getV x == s.getV y))

/-- 9XY0 (R158): skip if VX != VY. -/
def exec9XY0 (x y : Reg) (s : State) : Answer :=
  complete (s.skipIf (s.getV x != s.getV y))

end Sys2Proof.Machine
end

