-- ==== Sys2Proof/Machine/Display.lean ====
section
/-! DEFINITION. The display: clear and sprite blit (R220 to R227). -/

namespace Sys2Proof.Machine

/-- The framebuffer and whether a touched cell was set, as a blit goes on (R221). -/
abbrev Blit := BitVec 2048 × Bool

/-- The cell of column `x` and row `y`, both unreduced: one modulo over the linear buffer (R222). -/
def cellIndex (x y : Nat) : Nat := (x + y * dispW) % dispCells

/-- One touched cell: the collision is noted before the XOR (R221, R223). -/
def touch (p : Blit) (j : Nat) : Blit := (p.1 ^^^ BitVec.twoPow 2048 j, p.2 || p.1.getLsbD j)

/-- The bit of a sprite byte in a column: bit 7 is column 0 (R224). PRESUMED (log 16): the spec marks the order as
general knowledge. -/
def spriteBit (b : Byte) (col : Nat) : Bool := b.getLsbD (7 - col)

/-- One row of a sprite at row `y` (R221). -/
def blitRow (x0 y : Nat) (b : Byte) (p : Blit) : Blit :=
  [0, 1, 2, 3, 4, 5, 6, 7].foldl
    (fun q col => if spriteBit b col then touch q (cellIndex (x0 + col) y) else q) p

/-- The rows of a sprite from row `y` down (R221). -/
def blitRows (x0 y : Nat) : List Byte → Blit → Blit
  | [], p => p
  | b :: bs, p => blitRows x0 (y + 1) bs (blitRow x0 y b p)

/-- 00E0 (R220): clear the framebuffer, mark redraw pending. -/
def exec00E0 (s : State) : Answer :=
  complete { s with fb := 0, redraw := true }

/-- DXYN (R221): N sprite bytes from I, XORed at (VX, VY); VF takes the collision, redraw is marked. -/
def execDXYN (x y : Reg) (n : Nibble) (s : State) : Answer :=
  finish (encode (.opDXYN x y n)) s
    ((s.memRead s.addrI n.toNat).map fun rows =>
      let p := blitRows (s.getV x).toNat (s.getV y).toNat rows (s.fb, false)
      { s.setV regF (collisionFlag p.2) with fb := p.1, redraw := true })

end Sys2Proof.Machine
end

