-- ==== Sys2Proof/Machine/Index.lean ====
section
/-! DEFINITION. The index register and data memory (R200 to R206). -/

namespace Sys2Proof.Machine

/-- ANNN (R200): I <- NNN. -/
def execANNN (nnn : Addr12) (s : State) : Answer :=
  complete { s with i := addrNNN nnn }

/-- FX1E (R201): VF <- the range flag, then I <- I + VX modulo 2^16, both from the values at the start. -/
def execFX1E (x : Reg) (s : State) : Answer :=
  complete { s.setV regF (rangeFlag s.i (s.getV x)) with i := BitVec.ofNat 16 (s.i.toNat + (s.getV x).toNat) }

/-- FX29 (R202): I <- the glyph of VX, unmasked. -/
def execFX29 (x : Reg) (s : State) : Answer :=
  complete { s with i := s.glyphAddr (s.getV x) }

/-- FX33 (R203): the three decimal digits of VX to I, I+1, I+2. -/
def execFX33 (x : Reg) (s : State) : Answer :=
  finish (encode (.opFX33 x)) s (s.memWrite s.addrI (digits (s.getV x)))

/-- FX55 (R204): V0..VX to I.., then I past the last byte. -/
def execFX55 (x : Reg) (s : State) : Answer :=
  finish (encode (.opFX55 x)) s
    ((s.memWrite s.addrI (s.blockV (blockSize x))).map fun t => { t with i := s.iPastBlock x })

/-- FX65 (R205): V0..VX from I.., then I past the last byte. -/
def execFX65 (x : Reg) (s : State) : Answer :=
  finish (encode (.opFX65 x)) s
    ((s.memRead s.addrI (blockSize x)).map fun bytes => { s.loadV bytes with i := s.iPastBlock x })

end Sys2Proof.Machine
end

