-- ==== Sys2Proof/Machine/Keys.lean ====
section
/-! DEFINITION. The keypad and the timer registers (R240 to R248). -/

namespace Sys2Proof.Machine

/-- The key a register names, or the fault of the space `keypad` (R240): the number is not masked. -/
def State.keyAt (s : State) (k : Byte) : Except Fault Bool :=
  if h : k.toNat < 16 then .ok s.key[k.toNat] else .error (.outOfBoundsAccess .keypad k.toNat)

/-- The lowest pressed key from `k` on, among `n` (R245). -/
def lowestFrom (key : Vector Bool 16) (k : Nat) : Nat → Option Nat
  | 0 => none
  | n + 1 => if key.getD k false then some k else lowestFrom key (k + 1) n

/-- The lowest-indexed pressed key (R244, R245). -/
def State.lowestKey (s : State) : Option Nat := lowestFrom s.key 0 16

/-- EX9E (R241): skip if the key VX is pressed. -/
def execEX9E (x : Reg) (s : State) : Answer :=
  finish (encode (.opEX9E x)) s ((s.keyAt (s.getV x)).map fun b => s.skipIf b)

/-- EXA1 (R242): skip if the key VX is not pressed. -/
def execEXA1 (x : Reg) (s : State) : Answer :=
  finish (encode (.opEXA1 x)) s ((s.keyAt (s.getV x)).map fun b => s.skipIf (!b))

/-- FX07 (R243): VX <- DT. -/
def execFX07 (x : Reg) (s : State) : Answer :=
  complete (s.setV x s.dt)

/-- FX0A (R245): the lowest pressed key to VX; with none pressed, wait by taking PC back to this instruction. -/
def execFX0A (x : Reg) (s : State) : Answer :=
  match s.lowestKey with
  | some k => complete { s.setV x (BitVec.ofNat 8 k) with wait := .notWaiting }
  | none => complete { s.rewind with wait := .waiting }

/-- FX15 (R247): DT <- VX. -/
def execFX15 (x : Reg) (s : State) : Answer :=
  complete { s with dt := s.getV x }

/-- FX18 (R248): ST <- VX. -/
def execFX18 (x : Reg) (s : State) : Answer :=
  complete { s with st := s.getV x }

end Sys2Proof.Machine
end

