-- ==== Sys2Proof/Machine/Fetch.lean ====
section
/-! DEFINITION. The parts of a step around an instruction (R130): the per-step tick, the fetch, and an Unknown word;
and placing an instruction where the next fetch reads it. -/

namespace Sys2Proof.Machine

/-- The start of a step: one tick in `per_step` mode (R130, R141, R252). From the first step on, `load` is no longer
defined (R294). -/
def beginStep (s : State) : State :=
  match s.cfg.timerMode with
  | .perStep => { s.tick with loadOpen := false }
  | .externalTick => { s with loadOpen := false }

/-- The fetch (R131): two bytes at PC, big-endian (R74), or the fault of the space `fetch`. -/
def fetchWord (s : State) : Except Fault Word :=
  match boundsFault .fetch s.pc.toNat 2 with
  | some f => .error f
  | none => .ok (combine (s.byteAt s.pc.toNat) (s.byteAt (s.pc.toNat + 1)))

/-- An Unknown word: a no-op that reports (R113, R138). -/
def reportUnknown (op : Word) (s : State) : Answer := report .unknownOpcode op s

/-- The word's two bytes placed at PC, in memory order, where a fetch can read them; otherwise nothing is changed. -/
def placeWord (s : State) (op : Word) : State :=
  if s.pc.toNat + 2 ≤ memSize then
    { s with mem := Memory.writeBytes s.cfg s.mem s.pc.toNat [highByte op, lowByte op] }
  else s

end Sys2Proof.Machine
end

