-- ==== Sys2Proof/Machine/Step.lean ====
section
/-! DEFINITION. One `step()` (R130). -/

namespace Sys2Proof.Machine

/-- One step (R130): the tick of `per_step` mode, the fetch, the PC advance, then the instruction, or the report of an
Unknown word. -/
def step (s : State) : Host.Outcome State Fault Refusal :=
  match fetchWord (beginStep s) with
  | .error f => raiseAtFetch f (beginStep s)
  | .ok op =>
    match decodeWord op with
    | some i => exec i (beginStep s).advance
    | none => reportUnknown op (beginStep s).advance

/-- The state with a table word stored where the next step fetches it (log 13). -/
def State.withFetchWord (s : State) (nbits w : Nat) : State := placeWord s (tableWord nbits w)

end Sys2Proof.Machine
end

