-- ==== Sys2Proof/Machine/Ports.lean ====
section
/-! DEFINITION. The host's ports other than `step()` (R60 to R65, R290 to R294). They act only between steps (R66). -/

namespace Sys2Proof.Machine

/-- `tick()` (R62): exists only in `external_tick` mode. -/
def portTick (s : State) : Answer :=
  match s.cfg.timerMode with
  | .externalTick => .next s.tick
  | .perStep => .refused .noTickPort

/-- `set_key(k, b)` (R63): refused above 15, changing nothing. -/
def portSetKey (k : Nat) (b : Bool) (s : State) : Answer :=
  if h : k < 16 then .next { s with key := s.key.set k b } else .refused (.keyOutOfRange k)

/-- `ack_frame()` (R64). -/
def portAckFrame (s : State) : Answer := .next { s with redraw := false }

/-- `reset()` (R291): construction anew, so the ROM is gone. The parameters stay, and so do the model's mark (R268) and
its count of draws (log 10). -/
def portReset (s : State) : Answer :=
  .next { State.resetWith s.cfg with faultMark := s.faultMark, draws := s.draws }

/-- What `load(rom)` answers and leaves (R292, R293), where it is defined; `none` is a stream the host reports
unreadable. -/
def loadRom (s : State) : Option (List Byte) → Code × State
  | none => (.romUnreadable, s)
  | some rom =>
    if rom.length > romMax then (.romTooLarge, s)
    else (.ok, { s with mem := Memory.writeBytes s.cfg s.mem progBase rom, loadOpen := false })

/-- `load(rom)` (R292), refused outside the construction state (R294; log 9). -/
def portLoad (rom : Option (List Byte)) (s : State) : Host.Outcome (Code × State) Fault Refusal :=
  if s.loadOpen then .next (loadRom s rom) else .refused .loadNotAtConstruction

/-- `pixel(x, y)` (R65): a cell, or the fault of the space `display` to the caller. -/
def portPixel (s : State) (x y : Nat) : Except Fault Bool :=
  if x < dispW ∧ y < dispH then .ok (s.fb.getLsbD (x + dispW * y))
  else .error (.outOfBoundsAccess .display (x + dispW * y))

/-- `redraw()` (R65). -/
def portRedraw (s : State) : Bool := s.redraw

/-- `sound()` (R65): ST as the host reads it. -/
def portSound (s : State) : Byte := s.st

/-- The tuple S of R30, memory written out in full. -/
structure Observed where
  v : Vector Byte 16
  i : Word
  pc : Word
  stack : List Word
  dt : Byte
  st : Byte
  mem : List Byte
  fb : BitVec 2048
  redraw : Bool
  key : Vector Bool 16
  wait : Wait
  deriving DecidableEq, Repr

/-- `observe()` (R65): the whole state of R30. -/
def observe (s : State) : Observed :=
  { v := s.v, i := s.i, pc := s.pc, stack := s.stack, dt := s.dt, st := s.st,
    mem := Memory.readBytes s.cfg s.mem 0 memSize, fb := s.fb, redraw := s.redraw, key := s.key, wait := s.wait }

/-- A fault's code (R261). -/
def faultCode : Fault → Code
  | .stackOverflow => .stackOverflow
  | .stackUnderflow => .stackUnderflow
  | .outOfBoundsAccess _ _ => .outOfBoundsAccess

/-- A condition's code (R261). -/
def conditionCode : Condition → Code
  | .unknownOpcode => .unknownOpcode
  | .unimplemented => .unimplemented

/-- The number of a code (R261). -/
def codeNumber : Code → Nat
  | .ok => 0
  | .unknownOpcode => 1
  | .unimplemented => 2
  | .stackOverflow => 3
  | .stackUnderflow => 4
  | .outOfBoundsAccess => 5
  | .romTooLarge => 6
  | .romUnreadable => 7

/-- The record of R262. -/
structure Info where
  code : Code
  pc : Word
  opcode : Option Word
  space : Option Space
  addr : Option Nat
  deriving DecidableEq, Repr

/-- The space of a fault (R262). -/
def faultSpace : Fault → Option Space
  | .stackOverflow => none
  | .stackUnderflow => none
  | .outOfBoundsAccess sp _ => some sp

/-- The index of a fault (R262). -/
def faultAddr : Fault → Option Nat
  | .stackOverflow => none
  | .stackUnderflow => none
  | .outOfBoundsAccess _ a => some a

/-- The record a step returns with a condition or a fault (R262); Ok carries none (R61). -/
def resultInfo : StepResult → Option Info
  | .ok => none
  | .cond c pc op => some { code := conditionCode c, pc := pc, opcode := some op, space := none, addr := none }
  | .fault f pc op => some { code := faultCode f, pc := pc, opcode := op, space := faultSpace f, addr := faultAddr f }

end Sys2Proof.Machine
end

