-- ==== Sys2Proof/Machine/Calls.lean ====
section
/-! DEFINITION. Sessions: the host's calls of the ports in any order, between steps (R66, R81, R253). A claim about
every schedule of ticks, keys and steps is a claim about every list of calls. -/

namespace Sys2Proof.Machine

/-- A port call that can change the state (R60). -/
inductive PortCall where
  | step
  | tick
  | setKey (k : Nat) (b : Bool)
  | ackFrame
  | reset
  | load (rom : Option (List Byte))
  deriving DecidableEq, Repr

/-- The state after a load the port accepts, whatever code it answers. -/
def loadAnswer : Host.Outcome (Code × State) Fault Refusal → Answer
  | .next p => .next p.2
  | .fault f => .fault f
  | .refused r => .refused r

/-- One call. -/
def runCall (s : State) : PortCall → Answer
  | .step => step s
  | .tick => portTick s
  | .setKey k b => portSetKey k b s
  | .ackFrame => portAckFrame s
  | .reset => portReset s
  | .load rom => loadAnswer (portLoad rom s)

/-- A session: calls in order. A refused call changes nothing (R63, R294), so the session goes on from the same state. -/
def runCalls (s : State) : List PortCall → State
  | [] => s
  | c :: cs =>
    match runCall s c with
    | .next t => runCalls t cs
    | .fault _ => runCalls s cs
    | .refused _ => runCalls s cs

/-- `n` steps in a row with no other call between them. -/
def runSteps (n : Nat) (s : State) : State := runCalls s (List.replicate n .step)

end Sys2Proof.Machine
end

