-- ==== Sys2Proof/Safety.lean ====
section
/-! DEFINITION. The terms claims are made in: the pieces of the state and what a change leaves alone, the invariants,
a fault-free session, and the end of a program (R140). -/

namespace Sys2Proof.Machine

/-- The pieces of the state. -/
inductive Piece where
  | v | i | pc | stack | dt | st | mem | fb | redraw | key | wait | cfg | result | faultMark | draws | loadOpen
  deriving DecidableEq, Repr

/-- That a piece is the same in two states; memory is the same when every byte reads the same. -/
def Piece.same (s t : State) : Piece → Prop
  | .v => t.v = s.v
  | .i => t.i = s.i
  | .pc => t.pc = s.pc
  | .stack => t.stack = s.stack
  | .dt => t.dt = s.dt
  | .st => t.st = s.st
  | .mem => ∀ a, t.byteAt a = s.byteAt a
  | .fb => t.fb = s.fb
  | .redraw => t.redraw = s.redraw
  | .key => t.key = s.key
  | .wait => t.wait = s.wait
  | .cfg => t.cfg = s.cfg
  | .result => t.result = s.result
  | .faultMark => t.faultMark = s.faultMark
  | .draws => t.draws = s.draws
  | .loadOpen => t.loadOpen = s.loadOpen

/-- From `s` to `t` nothing changes but, at most, the pieces listed. -/
def onlyChanges (ps : List Piece) (s t : State) : Prop := ∀ p, p ∉ ps → p.same s t

/-- `exec` completes with Ok in a state of which `post` holds and in which nothing changed but the pieces listed and
the model's result. -/
def completes (i : Instr) (s : State) (ps : List Piece) (post : State → Prop) : Prop :=
  ∃ t, exec i s = .next t ∧ t.result = some .ok ∧ post t ∧ onlyChanges (.result :: ps) s t

/-- `exec` raises a fault: the result carries it with pc0 and the opcode, the mark is set, and nothing else changed
(R137). -/
def raises (i : Instr) (s : State) (f : Fault) : Prop :=
  ∃ t, exec i s = .next t ∧ t.result = some (.fault f s.pc0 (some (encode i))) ∧ t.faultMark = true ∧
    onlyChanges [.result, .faultMark] s t

/-- `exec` reports a condition: the result carries it with pc0 and the opcode, and nothing else changed (R138). -/
def reports (i : Instr) (s : State) (c : Condition) : Prop :=
  ∃ t, exec i s = .next t ∧ t.result = some (.cond c s.pc0 (encode i)) ∧ onlyChanges [.result] s t

/-- Whether a result is a fault (R261, codes 3 to 5). -/
def isFault : Option StepResult → Bool
  | some (.fault _ _ _) => true
  | some (.cond _ _ _) => false
  | some .ok => false
  | none => false

/-- The invariant of the state's shape: memory in canonical form, at most 16 stack entries (R39), FONT_BASE in its
range (R9). -/
abbrev State.Inv (s : State) : Prop :=
  Memory.wf s.cfg s.mem ∧ s.stack.length ≤ stackDepth ∧ s.cfg.valid

/-- How far PC and the stack's entries reach: BNNN's largest target (R154), and the address after the last fetch. -/
abbrev State.PcInv (s : State) : Prop :=
  s.pc.toNat ≤ 0x10FE ∧ ∀ w ∈ s.stack, w.toNat ≤ 0x1000

/-- A safe run: a session, from a state without the mark, that raised no fault (R268). -/
def faultFree (s : State) (cs : List PortCall) : Prop :=
  s.faultMark = false ∧ (runCalls s cs).faultMark = false

/-- The end of a program (R140): the next fetch reads a jump to itself. -/
def State.AtEnd (s : State) : Prop :=
  ∃ nnn : Addr12, fetchWord s = .ok (encode (.op1NNN nnn)) ∧ nnn.toNat = s.pc.toNat

/-- The pieces an instruction may write besides the model's result and mark: R34 for the registers, R35 for I, R38 for
PC, R40 for the stack, R42 for the timers, R46 and R47 for the display, R49 for the wait state, R76 for memory, R17 for
the draws. No instruction lists the keypad (R48), the parameters (R9) or `loadOpen`. -/
def mayWrite : Instr → List Piece
  | .op00E0 => [.fb, .redraw]
  | .op00EE => [.pc, .stack]
  | .op0NNN _ => []
  | .op1NNN _ => [.pc]
  | .op2NNN _ => [.pc, .stack]
  | .op3XNN _ _ => [.pc]
  | .op4XNN _ _ => [.pc]
  | .op5XY0 _ _ => [.pc]
  | .op6XNN _ _ => [.v]
  | .op7XNN _ _ => [.v]
  | .op8XY0 _ _ => [.v]
  | .op8XY1 _ _ => [.v]
  | .op8XY2 _ _ => [.v]
  | .op8XY3 _ _ => [.v]
  | .op8XY4 _ _ => [.v]
  | .op8XY5 _ _ => [.v]
  | .op8XY6 _ _ => [.v]
  | .op8XY7 _ _ => [.v]
  | .op8XYE _ _ => [.v]
  | .op9XY0 _ _ => [.pc]
  | .opANNN _ => [.i]
  | .opBNNN _ => [.pc]
  | .opCXNN _ _ => [.v, .draws]
  | .opDXYN _ _ _ => [.v, .fb, .redraw]
  | .opEX9E _ => [.pc]
  | .opEXA1 _ => [.pc]
  | .opFX07 _ => [.v]
  | .opFX0A _ => [.v, .pc, .wait]
  | .opFX15 _ => [.dt]
  | .opFX18 _ => [.st]
  | .opFX1E _ => [.v, .i]
  | .opFX29 _ => [.i]
  | .opFX33 _ => [.mem]
  | .opFX55 _ => [.mem, .i]
  | .opFX65 _ => [.v, .i]

/-- The registers an instruction may write: the last column of R34. -/
def mayWriteReg : Instr → Reg → Bool
  | .op00E0, _ => false
  | .op00EE, _ => false
  | .op0NNN _, _ => false
  | .op1NNN _, _ => false
  | .op2NNN _, _ => false
  | .op3XNN _ _, _ => false
  | .op4XNN _ _, _ => false
  | .op5XY0 _ _, _ => false
  | .op6XNN x _, r => r == x
  | .op7XNN x _, r => r == x
  | .op8XY0 x _, r => r == x
  | .op8XY1 x _, r => r == x || r == regF
  | .op8XY2 x _, r => r == x || r == regF
  | .op8XY3 x _, r => r == x || r == regF
  | .op8XY4 x _, r => r == x || r == regF
  | .op8XY5 x _, r => r == x || r == regF
  | .op8XY6 x _, r => r == x || r == regF
  | .op8XY7 x _, r => r == x || r == regF
  | .op8XYE x _, r => r == x || r == regF
  | .op9XY0 _ _, _ => false
  | .opANNN _, _ => false
  | .opBNNN _, _ => false
  | .opCXNN x _, r => r == x
  | .opDXYN _ _ _, r => r == regF
  | .opEX9E _, _ => false
  | .opEXA1 _, _ => false
  | .opFX07 x, r => r == x
  | .opFX0A x, r => r == x
  | .opFX15 _, _ => false
  | .opFX18 _, _ => false
  | .opFX1E _, r => r == regF
  | .opFX29 _, _ => false
  | .opFX33 _, _ => false
  | .opFX55 _, _ => false
  | .opFX65 x, r => decide (r.toNat ≤ x.toNat)

/-- A DXYN in state `s` touches cell `j` (R221, R222, R224): some row and column of the sprite has its bit set and lands
there. -/
def State.covers (s : State) (x y : Reg) (n : Nibble) (j : Nat) : Prop :=
  ∃ row col, row < n.toNat ∧ col < 8 ∧ (s.byteAt (s.i.toNat + row)).getLsbD (7 - col) = true ∧
    j = ((s.getV x).toNat + col + ((s.getV y).toNat + row) * 64) % 2048

/-- Every byte an access of `n` bytes from I touches is in memory, or there is none (R73, R225). -/
abbrev State.dataInBounds (s : State) (n : Nat) : Prop := n = 0 ∨ s.i.toNat + n ≤ 0x1000

/-- Two states that differ at most in what no instruction reads: ST (R42), REDRAW (R47), WAIT (R49), and the model's
result, mark and `loadOpen`. -/
def State.agreesOnRead (s t : State) : Prop :=
  t = { s with st := t.st, redraw := t.redraw, wait := t.wait, result := t.result, faultMark := t.faultMark,
               loadOpen := t.loadOpen }

end Sys2Proof.Machine
end

