-- ==== Sys2Proof/Certificates/Slice0/Obligations.lean ====
section
/-! DEFINITION. What is to be proved of the machine, from the numbered rules of spec/. Where a docstring says that a
clause is the spec's decision D<n>, the spec marks it as its own choice and the statement has basis 'derived'. -/

open Sys2Proof Sys2Proof.Machine

/-! ### Encoding -/

/-- Decoding the bytes of any well-formed instruction gives it back, with the bytes after it (R74, R100, R105). -/
def Obligations.DecodeOfEncode : Prop :=
  ∀ (i : Instr) (rest : List Byte), i.wf = true → decode (encodeBytes i ++ rest) = .instr i rest

/-- A word that decodes to an instruction is that instruction's word, and the instruction is well-formed: no two words
are the same instruction. -/
def Obligations.EncodeOfDecode : Prop :=
  ∀ (op : Word) (i : Instr), decodeWord op = some i → i.wf = true ∧ encode i = op

/-- The classes of one instruction (R107), and classes 8, E and F by their sub-field (R109, R110, R111). -/
def Obligations.DecodeByClass : Prop :=
  (∀ nnn : Addr12,
    decodeWord (0x1#4 ++ nnn) = some (.op1NNN nnn) ∧ decodeWord (0x2#4 ++ nnn) = some (.op2NNN nnn) ∧
    decodeWord (0xA#4 ++ nnn) = some (.opANNN nnn) ∧ decodeWord (0xB#4 ++ nnn) = some (.opBNNN nnn)) ∧
  (∀ (x : Reg) (nn : Byte),
    decodeWord (0x3#4 ++ x ++ nn) = some (.op3XNN x nn) ∧ decodeWord (0x4#4 ++ x ++ nn) = some (.op4XNN x nn) ∧
    decodeWord (0x6#4 ++ x ++ nn) = some (.op6XNN x nn) ∧ decodeWord (0x7#4 ++ x ++ nn) = some (.op7XNN x nn) ∧
    decodeWord (0xC#4 ++ x ++ nn) = some (.opCXNN x nn)) ∧
  (∀ (x y : Reg) (n : Nibble), decodeWord (0xD#4 ++ x ++ y ++ n) = some (.opDXYN x y n)) ∧
  (∀ (x y : Reg) (n : Nibble),
    decodeWord (0x8#4 ++ x ++ y ++ n) =
      if n = 0x0 then some (.op8XY0 x y) else if n = 0x1 then some (.op8XY1 x y)
      else if n = 0x2 then some (.op8XY2 x y) else if n = 0x3 then some (.op8XY3 x y)
      else if n = 0x4 then some (.op8XY4 x y) else if n = 0x5 then some (.op8XY5 x y)
      else if n = 0x6 then some (.op8XY6 x y) else if n = 0x7 then some (.op8XY7 x y)
      else if n = 0xE then some (.op8XYE x y) else none) ∧
  (∀ (x : Reg) (nn : Byte),
    decodeWord (0xE#4 ++ x ++ nn) =
      if nn = 0x9E then some (.opEX9E x) else if nn = 0xA1 then some (.opEXA1 x) else none) ∧
  (∀ (x : Reg) (nn : Byte),
    decodeWord (0xF#4 ++ x ++ nn) =
      if nn = 0x07 then some (.opFX07 x) else if nn = 0x0A then some (.opFX0A x)
      else if nn = 0x15 then some (.opFX15 x) else if nn = 0x18 then some (.opFX18 x)
      else if nn = 0x1E then some (.opFX1E x) else if nn = 0x29 then some (.opFX29 x)
      else if nn = 0x33 then some (.opFX33 x) else if nn = 0x55 then some (.opFX55 x)
      else if nn = 0x65 then some (.opFX65 x) else none)

/-- Class 0 has no Unknown word, 00E0 and 00EE come before 0NNN, and 5XYN and 9XYN with N other than 0 are Unknown: the
strictness is the spec's decision D9. -/
def Obligations.DecodeIsStrict : Prop :=
  (∀ nnn : Addr12, decodeWord (0x0#4 ++ nnn) =
    if nnn = 0x0E0 then some .op00E0 else if nnn = 0x0EE then some .op00EE else some (.op0NNN nnn)) ∧
  (∀ (x y : Reg) (n : Nibble),
    decodeWord (0x5#4 ++ x ++ y ++ n) = (if n = 0 then some (.op5XY0 x y) else none) ∧
    decodeWord (0x9#4 ++ x ++ y ++ n) = (if n = 0 then some (.op9XY0 x y) else none))

/-- Words of the spec's test vectors, bytes in memory order, decode to the instructions they stand for. -/
def Obligations.DecodeOfVectorWords : Prop :=
  decode [0x00, 0xEE] = .instr .op00EE [] ∧ decode [0x22, 0x10] = .instr (.op2NNN 0x210) [] ∧
  decode [0x6A, 0x2F] = .instr (.op6XNN 0xA 0x2F) [] ∧ decode [0x81, 0x24] = .instr (.op8XY4 1 2) [] ∧
  decode [0xF3, 0x55] = .instr (.opFX55 3) [] ∧ decode [0xD0, 0x12] = .instr (.opDXYN 0 1 2) [] ∧
  decode [0xE1, 0x9E] = .instr (.opEX9E 1) [] ∧ decode [0x51, 0x21] = .unknown 0x5121

/-! ### The step -/

/-- Where the bytes at PC decode to an instruction, a step is that instruction run on the state whose timers have
ticked in `per_step` mode and whose PC has advanced by 2. That the tick comes first is the spec's decision D3. -/
def Obligations.StepRunsTheDecodedInstruction : Prop :=
  ∀ (s : State) (i : Instr) (rest : List Byte), s.pc.toNat + 1 ≤ 0xFFF →
    decode [s.byteAt s.pc.toNat, s.byteAt (s.pc.toNat + 1)] = .instr i rest →
    ∃ u, step s = exec i u ∧ u.pc = s.pc + 2 ∧
      u.dt.toNat = (if s.cfg.timerMode = .perStep then s.dt.toNat - 1 else s.dt.toNat) ∧
      u.st.toNat = (if s.cfg.timerMode = .perStep then s.st.toNat - 1 else s.st.toNat) ∧
      onlyChanges [.pc, .dt, .st, .loadOpen] s u

/-- Every step answers a next state and a result: the block never stops by itself, and every fault and condition is a
result. -/
def Obligations.StepAlwaysAnswers : Prop :=
  ∀ s : State, ∃ t r, step s = .next t ∧ t.result = some r

/-- An Unknown word is reported and otherwise only the fetch's advance and the tick happen. That PC advances is the
spec's decision D8. -/
def Obligations.UnknownWordReportsAndAdvances : Prop :=
  ∀ (s : State) (op : Word), fetchWord s = .ok op → decodeWord op = none →
    ∃ t, step s = .next t ∧ t.result = some (.cond .unknownOpcode s.pc op) ∧ t.pc = s.pc + 2 ∧
      t.dt = (beginStep s).dt ∧ t.st = (beginStep s).st ∧
      onlyChanges [.pc, .dt, .st, .loadOpen, .result] s t

/-- A fetch whose second byte is above 0xFFF faults, and so does every further step: PC stays, the result names the
lowest address above 0xFFF, the mark is set, and nothing but the timers changes. That PC stays is the spec's decision
D7, that the bound is checked at the fetch D11. -/
def Obligations.FetchFaultRepeats : Prop :=
  ∀ (s : State) (n : Nat), s.pc.toNat + 1 > 0xFFF →
    (runSteps (n + 1) s).result =
      some (.fault (.outOfBoundsAccess .fetch (if s.pc.toNat > 0xFFF then s.pc.toNat else s.pc.toNat + 1))
        s.pc none) ∧
    (runSteps (n + 1) s).faultMark = true ∧
    (runSteps (n + 1) s).dt.toNat =
      (if s.cfg.timerMode = .perStep then s.dt.toNat - (n + 1) else s.dt.toNat) ∧
    onlyChanges [.dt, .st, .loadOpen, .result, .faultMark] s (runSteps (n + 1) s)

/-- After a step whose instruction faulted: PC is pc0 + 2, the timers have ticked in `per_step` mode, the result names
pc0 and the fetched word, and nothing else is written. The state after a fault is the spec's decision D7. -/
def Obligations.FaultingStepWritesNothing : Prop :=
  ∀ (s t : State) (f : Fault) (pc0 op : Word), step s = .next t → t.result = some (.fault f pc0 (some op)) →
    pc0 = s.pc ∧ fetchWord s = .ok op ∧ t.pc = s.pc + 2 ∧ t.faultMark = true ∧
    t.dt = (beginStep s).dt ∧ t.st = (beginStep s).st ∧
    onlyChanges [.pc, .dt, .st, .loadOpen, .result, .faultMark] s t

/-- The mark is set by exactly the steps that return a fault, and no call of any port clears it (R67, R268, decision
D33). -/
def Obligations.FaultMarkIsKept : Prop :=
  (∀ s t : State, step s = .next t → t.faultMark = (s.faultMark || isFault t.result)) ∧
  (∀ (cs : List PortCall) (s : State), s.faultMark = true → (runCalls s cs).faultMark = true)

/-- An instruction raises a fault only where R263 lists it, and with the index R262 gives. R263 is derived and the
record of R262 is the spec's decision D19. -/
def Obligations.FaultsOnlyWhereListed : Prop :=
  ∀ (i : Instr) (s t : State) (f : Fault) (pc0 : Word) (op : Option Word),
    exec i s = .next t → t.result = some (.fault f pc0 op) →
    (∃ nnn, i = .op2NNN nnn ∧ 16 ≤ s.stack.length ∧ f = .stackOverflow) ∨
    (i = .op00EE ∧ s.stack = [] ∧ f = .stackUnderflow) ∨
    (∃ x y n, i = .opDXYN x y n ∧ n.toNat > 0 ∧ s.i.toNat + n.toNat - 1 > 0xFFF ∧
      f = .outOfBoundsAccess .memory (max s.i.toNat 0x1000)) ∨
    (∃ x, i = .opFX33 x ∧ s.i.toNat + 2 > 0xFFF ∧ f = .outOfBoundsAccess .memory (max s.i.toNat 0x1000)) ∨
    (∃ x, (i = .opFX55 x ∨ i = .opFX65 x) ∧ s.i.toNat + x.toNat > 0xFFF ∧
      f = .outOfBoundsAccess .memory (max s.i.toNat 0x1000)) ∨
    (∃ x, (i = .opEX9E x ∨ i = .opEXA1 x) ∧ (s.getV x).toNat > 0x0F ∧
      f = .outOfBoundsAccess .keypad (s.getV x).toNat)

/-! ### Control flow -/

/-- 00EE (R150): the most recent entry goes to PC as it is; with none, StackUnderflow and nothing written. -/
def Obligations.ReturnPopsOrUnderflows : Prop :=
  decodeWord 0x00EE = some .op00EE ∧
  (∀ (s : State) (w : Word) (ws : List Word), s.stack = w :: ws →
    completes .op00EE s [.pc, .stack] fun t => t.pc = w ∧ t.stack = ws) ∧
  (∀ s : State, s.stack = [] → raises .op00EE s .stackUnderflow)

/-- 0NNN (R151): reports Unimplemented and writes nothing. Its no-op reading is the spec's decision D8. -/
def Obligations.LegacyCallReports : Prop :=
  ∀ (s : State) (nnn : Addr12), reports (.op0NNN nnn) s .unimplemented

/-- 1NNN (R152): PC becomes NNN; a jump to itself is taken again by every later step, which changes nothing but the
timers (and the model's result and `loadOpen`). -/
def Obligations.JumpLoadsPc : Prop :=
  (∀ nnn : Addr12, decodeWord (0x1#4 ++ nnn) = some (.op1NNN nnn)) ∧
  (∀ (s : State) (nnn : Addr12), completes (.op1NNN nnn) s [.pc] fun t => t.pc.toNat = nnn.toNat) ∧
  (∀ (s : State) (n : Nat), s.AtEnd →
    (runSteps n s).AtEnd ∧ onlyChanges [.dt, .st, .result, .loadOpen] s (runSteps n s))

/-- 2NNN (R153): pushes the return address and jumps; with 16 entries, StackOverflow and nothing written. -/
def Obligations.CallPushesOrOverflows : Prop :=
  (∀ nnn : Addr12, decodeWord (0x2#4 ++ nnn) = some (.op2NNN nnn)) ∧
  (∀ (s : State) (nnn : Addr12), s.stack.length < 16 →
    completes (.op2NNN nnn) s [.pc, .stack] fun t => t.pc.toNat = nnn.toNat ∧ t.stack = s.pc :: s.stack) ∧
  (∀ (s : State) (nnn : Addr12), s.stack.length = 16 → raises (.op2NNN nnn) s .stackOverflow)

/-- BNNN (R154): PC becomes NNN + V0, which never wraps. That the jump itself never faults is the spec's decision
D11. -/
def Obligations.JumpAddsV0 : Prop :=
  ∀ (s : State) (nnn : Addr12),
    completes (.opBNNN nnn) s [.pc] fun t => t.pc.toNat = nnn.toNat + (s.getV 0).toNat

/-- 3XNN and 4XNN (R155, R156): two more bytes when VX equals, or differs from, NN. -/
def Obligations.SkipsOnImmediate : Prop :=
  ∀ (s : State) (x : Reg) (nn : Byte),
    decodeWord (0x3#4 ++ x ++ nn) = some (.op3XNN x nn) ∧ decodeWord (0x4#4 ++ x ++ nn) = some (.op4XNN x nn) ∧
    completes (.op3XNN x nn) s [.pc] (fun t => t.pc = if s.getV x = nn then s.pc + 2 else s.pc) ∧
    completes (.op4XNN x nn) s [.pc] (fun t => t.pc = if s.getV x = nn then s.pc else s.pc + 2)

/-- 5XY0 and 9XY0 (R157, R158): two more bytes when VX equals, or differs from, VY; with N other than 0 the word is
Unknown. -/
def Obligations.SkipsOnRegisters : Prop :=
  ∀ (s : State) (x y : Reg),
    decodeWord (0x5#4 ++ x ++ y ++ 0#4) = some (.op5XY0 x y) ∧
    decodeWord (0x9#4 ++ x ++ y ++ 0#4) = some (.op9XY0 x y) ∧
    (∀ n : Nibble, n ≠ 0 →
      decodeWord (0x5#4 ++ x ++ y ++ n) = none ∧ decodeWord (0x9#4 ++ x ++ y ++ n) = none) ∧
    completes (.op5XY0 x y) s [.pc] (fun t => t.pc = if s.getV x = s.getV y then s.pc + 2 else s.pc) ∧
    completes (.op9XY0 x y) s [.pc] (fun t => t.pc = if s.getV x = s.getV y then s.pc else s.pc + 2)

/-- A call followed at its target by a return comes back to the word after the call, with the stack as before
(95_test_vectors.md L1-5). -/
def Obligations.CallThenReturnComesBack : Prop :=
  ∀ (s : State) (nnn : Addr12), fetchWord s = .ok (encode (.op2NNN nnn)) → s.stack.length < 16 →
    nnn.toNat + 1 ≤ 0xFFF → s.byteAt nnn.toNat = 0x00 → s.byteAt (nnn.toNat + 1) = 0xEE →
    (runSteps 2 s).pc = s.pc + 2 ∧ (runSteps 2 s).result = some .ok ∧
    onlyChanges [.pc, .dt, .st, .result, .loadOpen] s (runSteps 2 s)

/-! ### Registers and arithmetic -/

/-- 6XNN, 7XNN and 8XY0 (R170, R171, R172): the register takes NN, the sum modulo 256, or VY; every other register,
VF among them, is as before. -/
def Obligations.LoadsAndAddImmediate : Prop :=
  ∀ (s : State) (x y : Reg) (nn : Byte),
    decodeWord (0x6#4 ++ x ++ nn) = some (.op6XNN x nn) ∧ decodeWord (0x7#4 ++ x ++ nn) = some (.op7XNN x nn) ∧
    decodeWord (0x8#4 ++ x ++ y ++ 0x0#4) = some (.op8XY0 x y) ∧
    completes (.op6XNN x nn) s [.v] (fun t => ∀ r, t.getV r = if r = x then nn else s.getV r) ∧
    completes (.op7XNN x nn) s [.v] (fun t => ∀ r,
      (t.getV r).toNat = if r = x then ((s.getV x).toNat + nn.toNat) % 256 else (s.getV r).toNat) ∧
    completes (.op8XY0 x y) s [.v] (fun t => ∀ r, t.getV r = if r = x then s.getV y else s.getV r)

/-- 8XY1, 8XY2 and 8XY3 (R173, R174, R175): bit by bit OR, AND or XOR into VX, then VF is 0, also when X is F. -/
def Obligations.LogicResetsVF : Prop :=
  ∀ (s : State) (x y : Reg),
    decodeWord (0x8#4 ++ x ++ y ++ 0x1#4) = some (.op8XY1 x y) ∧
    decodeWord (0x8#4 ++ x ++ y ++ 0x2#4) = some (.op8XY2 x y) ∧
    decodeWord (0x8#4 ++ x ++ y ++ 0x3#4) = some (.op8XY3 x y) ∧
    completes (.op8XY1 x y) s [.v] (fun t => t.getV regF = 0 ∧ ∀ r, r ≠ regF →
      ∀ k, k < 8 → (t.getV r).getLsbD k =
        if r = x then (s.getV x).getLsbD k || (s.getV y).getLsbD k else (s.getV r).getLsbD k) ∧
    completes (.op8XY2 x y) s [.v] (fun t => t.getV regF = 0 ∧ ∀ r, r ≠ regF →
      ∀ k, k < 8 → (t.getV r).getLsbD k =
        if r = x then (s.getV x).getLsbD k && (s.getV y).getLsbD k else (s.getV r).getLsbD k) ∧
    completes (.op8XY3 x y) s [.v] (fun t => t.getV regF = 0 ∧ ∀ r, r ≠ regF →
      ∀ k, k < 8 → (t.getV r).getLsbD k =
        if r = x then ((s.getV x).getLsbD k ^^ (s.getV y).getLsbD k) else (s.getV r).getLsbD k)

/-- 8XY4 (R176): VX takes the sum modulo 256 and VF the carry; with X = F the sum stands, by the spec's decision D6. -/
def Obligations.AddSetsCarry : Prop :=
  ∀ (s : State) (x y : Reg),
    completes (.op8XY4 x y) s [.v] fun t => ∀ r, (t.getV r).toNat =
      if r = x then ((s.getV x).toNat + (s.getV y).toNat) % 256
      else if r = regF then (if (s.getV x).toNat + (s.getV y).toNat > 255 then 1 else 0)
      else (s.getV r).toNat

/-- 8XY5 and 8XY7 (R177, R179): VX takes the difference modulo 256 and VF is 1 exactly when there is no borrow; with
X = F the difference stands, by the spec's decision D6. -/
def Obligations.SubtractSetsNotBorrow : Prop :=
  ∀ (s : State) (x y : Reg),
    (completes (.op8XY5 x y) s [.v] fun t => ∀ r, ((t.getV r).toNat : Int) =
      if r = x then (((s.getV x).toNat : Int) - (s.getV y).toNat) % 256
      else if r = regF then (if (s.getV x).toNat ≥ (s.getV y).toNat then 1 else 0)
      else (s.getV r).toNat) ∧
    (completes (.op8XY7 x y) s [.v] fun t => ∀ r, ((t.getV r).toNat : Int) =
      if r = x then (((s.getV y).toNat : Int) - (s.getV x).toNat) % 256
      else if r = regF then (if (s.getV y).toNat ≥ (s.getV x).toNat then 1 else 0)
      else (s.getV r).toNat)

/-- 8XY6 and 8XYE (R178, R180): VX itself is shifted by one, VF takes the bit shifted out, and VY plays no part; with
X = F the shifted value stands, by the spec's decision D6. -/
def Obligations.ShiftsTakeTheBitOut : Prop :=
  ∀ (s : State) (x y : Reg),
    (completes (.op8XY6 x y) s [.v] fun t => ∀ r, (t.getV r).toNat =
      if r = x then (s.getV x).toNat / 2
      else if r = regF then (s.getV x).toNat % 2
      else (s.getV r).toNat) ∧
    (completes (.op8XYE x y) s [.v] fun t => ∀ r, (t.getV r).toNat =
      if r = x then (s.getV x).toNat * 2 % 256
      else if r = regF then (s.getV x).toNat / 128
      else (s.getV r).toNat)

/-- The whole table of R183: the outcomes when an operand is VF, `a` being the old VX, `b` the old VY and `f` the old VF.
The table is derived and rests on the spec's decision D6. -/
def Obligations.VFOperandOutcomes : Prop :=
  ∀ (s t : State) (x y : Reg), x ≠ regF → y ≠ regF →
    let a := s.getV x
    let b := s.getV y
    let f := s.getV regF
    (exec (.op8XY0 regF y) s = .next t → t.getV regF = b) ∧
    (exec (.op8XY1 regF y) s = .next t → t.getV regF = 0) ∧
    (exec (.op8XY2 regF y) s = .next t → t.getV regF = 0) ∧
    (exec (.op8XY3 regF y) s = .next t → t.getV regF = 0) ∧
    (exec (.op8XY4 regF y) s = .next t → t.getV regF = f + b) ∧
    (exec (.op8XY5 regF y) s = .next t → t.getV regF = f - b) ∧
    (exec (.op8XY6 regF y) s = .next t → t.getV regF = f >>> 1) ∧
    (exec (.op8XY7 regF y) s = .next t → t.getV regF = b - f) ∧
    (exec (.op8XYE regF y) s = .next t → t.getV regF = f <<< 1) ∧
    (exec (.op8XY0 x regF) s = .next t → t.getV x = f ∧ t.getV regF = f) ∧
    (exec (.op8XY1 x regF) s = .next t → t.getV x = a ||| f ∧ t.getV regF = 0) ∧
    (exec (.op8XY2 x regF) s = .next t → t.getV x = a &&& f ∧ t.getV regF = 0) ∧
    (exec (.op8XY3 x regF) s = .next t → t.getV x = a ^^^ f ∧ t.getV regF = 0) ∧
    (exec (.op8XY4 x regF) s = .next t →
      t.getV x = a + f ∧ t.getV regF = if a.toNat + f.toNat > 255 then 1 else 0) ∧
    (exec (.op8XY5 x regF) s = .next t →
      t.getV x = a - f ∧ t.getV regF = if a.toNat ≥ f.toNat then 1 else 0) ∧
    (exec (.op8XY6 x regF) s = .next t →
      t.getV x = a >>> 1 ∧ t.getV regF = if a.getLsbD 0 then 1 else 0) ∧
    (exec (.op8XY7 x regF) s = .next t →
      t.getV x = f - a ∧ t.getV regF = if f.toNat ≥ a.toNat then 1 else 0) ∧
    (exec (.op8XYE x regF) s = .next t →
      t.getV x = a <<< 1 ∧ t.getV regF = if a.getLsbD 7 then 1 else 0) ∧
    (exec (.op8XY0 regF regF) s = .next t → t.getV regF = f) ∧
    (exec (.op8XY1 regF regF) s = .next t → t.getV regF = 0) ∧
    (exec (.op8XY2 regF regF) s = .next t → t.getV regF = 0) ∧
    (exec (.op8XY3 regF regF) s = .next t → t.getV regF = 0) ∧
    (exec (.op8XY4 regF regF) s = .next t → (t.getV regF).toNat = 2 * f.toNat % 256) ∧
    (exec (.op8XY5 regF regF) s = .next t → t.getV regF = 0) ∧
    (exec (.op8XY6 regF regF) s = .next t → t.getV regF = f >>> 1) ∧
    (exec (.op8XY7 regF regF) s = .next t → t.getV regF = 0) ∧
    (exec (.op8XYE regF regF) s = .next t → t.getV regF = f <<< 1)

/-- CXNN (R181): VX takes the next draw AND NN, whatever the draw is, so it is a submask of NN. The draw is a free value
(log 3), as the spec's decision D26 asks. -/
def Obligations.RandomIsAMaskedDraw : Prop :=
  ∀ (s : State) (x : Reg) (nn : Byte),
    completes (.opCXNN x nn) s [.v, .draws] fun t =>
      (∀ r, t.getV r = if r = x then Config.rand s.draws &&& nn else s.getV r) ∧
      t.getV x &&& ~~~nn = 0 ∧ t.draws = s.draws + 1

/-! ### Index register and memory -/

/-- ANNN (R200): I becomes NNN, at most 0xFFF. -/
def Obligations.LoadIndex : Prop :=
  (∀ nnn : Addr12, decodeWord (0xA#4 ++ nnn) = some (.opANNN nnn)) ∧
  (∀ (s : State) (nnn : Addr12),
    completes (.opANNN nnn) s [.i] fun t => t.i.toNat = nnn.toNat ∧ t.i.toNat ≤ 0x0FFF)

/-- FX1E (R201): VF is 1 exactly when the exact sum exceeds 0xFFF, and I keeps the sum modulo 2^16; with X = F the
addend is the old VF, by the spec's decision D6, and the width of I is D12. -/
def Obligations.AddToIndexFlagsRange : Prop :=
  ∀ (s : State) (x : Reg),
    completes (.opFX1E x) s [.v, .i] fun t =>
      (∀ r, r ≠ regF → t.getV r = s.getV r) ∧
      t.getV regF = (if s.i.toNat + (s.getV x).toNat > 0x0FFF then 1 else 0) ∧
      t.i.toNat = (s.i.toNat + (s.getV x).toNat) % 65536

/-- FX29 (R202): I becomes FONT_BASE + 5 * VX, VX unmasked; with FONT_BASE in its range that is at most 0x6AB and in
memory. FONT_BASE is a parameter by the spec's decision D4, and the missing mask is D32. -/
def Obligations.GlyphAddressInMemory : Prop :=
  ∀ (s : State) (x : Reg),
    completes (.opFX29 x) s [.i] fun t =>
      t.i.toNat = (5 * (s.getV x).toNat + s.cfg.fontBase) % 65536 ∧
      (s.cfg.valid → t.i.toNat = s.cfg.fontBase + 5 * (s.getV x).toNat ∧ t.i.toNat ≤ 0x06AB)

/-- FX33 (R203): the hundreds, tens and units of VX at I, I+1, I+2, every other byte and I as before; with I + 2 above
0xFFF, OutOfBoundsAccess and no byte written. -/
def Obligations.StoresDecimalDigits : Prop :=
  (∀ x : Reg, decodeWord (0xF#4 ++ x ++ 0x33#8) = some (.opFX33 x)) ∧
  (∀ (s : State) (x : Reg), s.Inv → s.i.toNat + 2 ≤ 0x0FFF →
    completes (.opFX33 x) s [.mem] fun t =>
      (t.byteAt s.i.toNat).toNat = (s.getV x).toNat / 100 ∧
      (t.byteAt (s.i.toNat + 1)).toNat = (s.getV x).toNat / 10 % 10 ∧
      (t.byteAt (s.i.toNat + 2)).toNat = (s.getV x).toNat % 10 ∧
      ∀ a, a < s.i.toNat ∨ s.i.toNat + 2 < a → t.byteAt a = s.byteAt a) ∧
  (∀ (s : State) (x : Reg), s.i.toNat + 2 > 0x0FFF →
    raises (.opFX33 x) s (.outOfBoundsAccess .memory (max s.i.toNat 0x1000)))

/-- FX55 (R204): V0..VX at I.., V0 lowest, I past the last byte, every other byte as before; with I + X above 0xFFF,
OutOfBoundsAccess and nothing written. -/
def Obligations.StoresRegisterBlock : Prop :=
  (∀ x : Reg, decodeWord (0xF#4 ++ x ++ 0x55#8) = some (.opFX55 x)) ∧
  (∀ (s : State) (x : Reg), s.Inv → s.i.toNat + x.toNat ≤ 0x0FFF →
    completes (.opFX55 x) s [.mem, .i] fun t =>
      (∀ r : Reg, r.toNat ≤ x.toNat → t.byteAt (s.i.toNat + r.toNat) = s.getV r) ∧
      (∀ a, a < s.i.toNat ∨ s.i.toNat + x.toNat < a → t.byteAt a = s.byteAt a) ∧
      t.i.toNat = s.i.toNat + x.toNat + 1) ∧
  (∀ (s : State) (x : Reg), s.i.toNat + x.toNat > 0x0FFF →
    raises (.opFX55 x) s (.outOfBoundsAccess .memory (max s.i.toNat 0x1000)))

/-- FX65 (R205): V0..VX from I.., I past the last byte, the other registers as before; with I + X above 0xFFF,
OutOfBoundsAccess and nothing written. That a load out of range faults is the spec's decision D13. -/
def Obligations.LoadsRegisterBlock : Prop :=
  (∀ (s : State) (x : Reg), s.i.toNat + x.toNat ≤ 0x0FFF →
    completes (.opFX65 x) s [.v, .i] fun t =>
      (∀ r : Reg, t.getV r = if r.toNat ≤ x.toNat then s.byteAt (s.i.toNat + r.toNat) else s.getV r) ∧
      t.i.toNat = s.i.toNat + x.toNat + 1) ∧
  (∀ (s : State) (x : Reg), s.i.toNat + x.toNat > 0x0FFF →
    raises (.opFX65 x) s (.outOfBoundsAccess .memory (max s.i.toNat 0x1000)))

/-- Registers stored by FX55 and loaded back by FX65 from the same I are as they were, whatever the registers hold in
between (95_test_vectors.md L1-6, read as 90_conflicts.md C11 says). -/
def Obligations.StoreThenLoadRestores : Prop :=
  ∀ (s t u w : State) (x : Reg), s.Inv → s.i.toNat + x.toNat ≤ 0x0FFF → exec (.opFX55 x) s = .next t →
    u.cfg = t.cfg → u.mem = t.mem → u.i = s.i → exec (.opFX65 x) u = .next w →
    w.i = t.i ∧ ∀ r : Reg, r.toNat ≤ x.toNat → w.getV r = s.getV r

/-- A store over the two bytes at the next PC changes the next instruction fetched: FX55 with I = pc0 + 2 makes the next
word V0 and V1 (R84, which is derived). -/
def Obligations.StoreChangesTheNextFetch : Prop :=
  ∀ (s : State) (x : Reg), s.Inv → fetchWord s = .ok (encode (.opFX55 x)) → 1 ≤ x.toNat → s.i = s.pc + 2 →
    s.i.toNat + x.toNat ≤ 0x0FFF →
    ∃ t, step s = .next t ∧ t.pc = s.i ∧ fetchWord t = .ok (combine (s.getV 0) (s.getV 1))

/-! ### Display -/

/-- 00E0 (R220): every cell is 0 and redraw is pending; VF is as before. -/
def Obligations.ClearScreen : Prop :=
  decodeWord 0x00E0 = some .op00E0 ∧
  (∀ s : State, completes .op00E0 s [.fb, .redraw] fun t =>
    (∀ j, j < 2048 → t.fb.getLsbD j = false) ∧ t.redraw = true)

/-- DXYN in bounds (R221 to R226): exactly the covered cells are inverted, VF is 1 exactly when a covered cell was set,
redraw is pending, and the other registers and I are as before. The bit order is the spec's decision D14 (log 16), N = 0 is
D15, the reads at the start D16. -/
def Obligations.DrawInvertsCoveredCells : Prop :=
  ∀ (s : State) (x y : Reg) (n : Nibble), s.dataInBounds n.toNat →
    completes (.opDXYN x y n) s [.v, .fb, .redraw] fun t =>
      (∀ j, j < 2048 → s.covers x y n j → t.fb.getLsbD j = !s.fb.getLsbD j) ∧
      (∀ j, j < 2048 → ¬ s.covers x y n j → t.fb.getLsbD j = s.fb.getLsbD j) ∧
      ((∃ j, s.covers x y n j ∧ s.fb.getLsbD j = true) → t.getV regF = 1) ∧
      ((∀ j, s.covers x y n j → s.fb.getLsbD j = false) → t.getV regF = 0) ∧
      (∀ r, r ≠ regF → t.getV r = s.getV r) ∧ t.redraw = true

/-- The same draw twice, for X and Y other than F, restores every cell, because XOR is its own inverse. The second draw
sets VF exactly when some covered cell was 0 before the first: R227, which is derived, says this of every sprite with a
set bit, which R221 makes false where every covered cell was 1 (log 22). The bit order that `covers` rests on is the
spec's decision D14 (log 16). -/
def Obligations.DrawTwiceRestores : Prop :=
  ∀ (s t u : State) (x y : Reg) (n : Nibble), x ≠ regF → y ≠ regF → s.dataInBounds n.toNat →
    exec (.opDXYN x y n) s = .next t → exec (.opDXYN x y n) t = .next u →
    u.fb = s.fb ∧ u.redraw = true ∧
    ((∃ j, s.covers x y n j ∧ s.fb.getLsbD j = false) → u.getV regF = 1) ∧
    ((∀ j, s.covers x y n j → s.fb.getLsbD j = true) → u.getV regF = 0)

/-- DXYN with a sprite byte above 0xFFF faults and writes nothing (decision D7); with N = 0 it touches no cell and sets
VF to 0 whatever I is (decision D15). -/
def Obligations.DrawOutOfBoundsAndEmpty : Prop :=
  (∀ (s : State) (x y : Reg) (n : Nibble), n.toNat > 0 → s.i.toNat + n.toNat - 1 > 0x0FFF →
    raises (.opDXYN x y n) s (.outOfBoundsAccess .memory (max s.i.toNat 0x1000))) ∧
  (∀ (s : State) (x y : Reg), completes (.opDXYN x y 0) s [.v, .redraw] fun t =>
    t.redraw = true ∧ ∀ r, t.getV r = if r = regF then 0 else s.getV r)

/-! ### Keypad and timers -/

/-- EX9E and EXA1 (R241, R242): two more bytes when the key VX is pressed, or is not; a key number above 15 faults and
does not skip, by the spec's decision D10. -/
def Obligations.KeySkips : Prop :=
  ∀ (s : State) (x : Reg),
    (∀ h : (s.getV x).toNat < 16,
      (completes (.opEX9E x) s [.pc] fun t => t.pc = if s.key[(s.getV x).toNat] then s.pc + 2 else s.pc) ∧
      (completes (.opEXA1 x) s [.pc] fun t => t.pc = if s.key[(s.getV x).toNat] then s.pc else s.pc + 2)) ∧
    ((s.getV x).toNat > 0x0F →
      raises (.opEX9E x) s (.outOfBoundsAccess .keypad (s.getV x).toNat) ∧
      raises (.opEXA1 x) s (.outOfBoundsAccess .keypad (s.getV x).toNat))

/-- FX07 and FX15 (R243, R247): VX takes DT, or DT takes VX. Where the tick falls is the spec's decision D3. -/
def Obligations.DelayTimerMoves : Prop :=
  ∀ (s : State) (x : Reg),
    (completes (.opFX07 x) s [.v] fun t => ∀ r, t.getV r = if r = x then s.dt else s.getV r) ∧
    (completes (.opFX15 x) s [.dt] fun t => t.dt = s.getV x)

/-- FX18 (R248): ST takes VX, and the host reads it through `sound()`. -/
def Obligations.SoundTimerIsSet : Prop :=
  (∀ x : Reg, decodeWord (0xF#4 ++ x ++ 0x18#8) = some (.opFX18 x)) ∧
  (∀ (s : State) (x : Reg), completes (.opFX18 x) s [.st] fun t => t.st = s.getV x ∧ portSound t = s.getV x)

/-- FX0A (R245): with a key pressed, VX takes the lowest pressed key and the wait ends; with none, PC goes back by 2 and
the machine waits. That a key already pressed completes at once is the spec's decision D24. -/
def Obligations.WaitTakesLowestKey : Prop :=
  (∀ (s : State) (x : Reg) (k : Nat) (h : k < 16), s.key[k] = true →
    (∀ q (hq : q < k), s.key[q] = false) →
    completes (.opFX0A x) s [.v, .wait] fun t =>
      t.wait = .notWaiting ∧ ∀ r, t.getV r = if r = x then BitVec.ofNat 8 k else s.getV r) ∧
  (∀ (s : State) (x : Reg), (∀ k (h : k < 16), s.key[k] = false) →
    completes (.opFX0A x) s [.pc, .wait] fun t => t.wait = .waiting ∧ t.pc = s.pc - 2)

/-- While no key is pressed FX0A runs again at every step and changes only the wait state and the timers; once the host
presses a key the next step takes it and goes on (R246, derived; 95_test_vectors.md L1-7). -/
def Obligations.WaitHoldsUntilAKey : Prop :=
  ∀ (s : State) (x : Reg) (n k : Nat), fetchWord s = .ok (encode (.opFX0A x)) →
    (∀ q (h : q < 16), s.key[q] = false) → k < 16 →
    onlyChanges [.wait, .dt, .st, .result, .loadOpen] s (runSteps n s) ∧
    (n ≠ 0 → (runSteps n s).wait = .waiting) ∧
    (runCalls (runSteps n s) [.setKey k true, .step]).pc = s.pc + 2 ∧
    (runCalls (runSteps n s) [.setKey k true, .step]).wait = .notWaiting ∧
    (runCalls (runSteps n s) [.setKey k true, .step]).getV x = BitVec.ofNat 8 k

/-- One tick (R251): each timer goes down by one, on its own, and not below 0. -/
def Obligations.TickCountsDown : Prop :=
  ∀ s : State, s.tick.dt.toNat = s.dt.toNat - 1 ∧ s.tick.st.toNat = s.st.toNat - 1 ∧
    onlyChanges [.dt, .st] s s.tick

/-- A timer reaches 0 after as many ticks as it holds: by the host's ticks in `external_tick` mode, and by the steps of
a program that sits at its end in `per_step` mode (R301, derived). -/
def Obligations.TimersReachZero : Prop :=
  (∀ (s : State) (n : Nat), s.cfg.timerMode = .externalTick →
    (runCalls s (List.replicate n .tick)).dt.toNat = s.dt.toNat - n ∧
    (runCalls s (List.replicate n .tick)).st.toNat = s.st.toNat - n) ∧
  (∀ (s : State) (n : Nat), s.cfg.timerMode = .perStep → s.AtEnd →
    (runSteps n s).dt.toNat = s.dt.toNat - n ∧ (runSteps n s).st.toNat = s.st.toNat - n)

/-- But for FX15 and FX18 a step leaves the timers as its start left them: ticked once in `per_step` mode, untouched in
`external_tick` mode (R42, R141, decision D3). -/
def Obligations.TimersAreSetOnlyByTheirInstructions : Prop :=
  ∀ s t : State, step s = .next t →
    ((∀ x, fetchWord s ≠ .ok (encode (.opFX15 x))) →
      t.dt.toNat = if s.cfg.timerMode = .perStep then s.dt.toNat - 1 else s.dt.toNat) ∧
    ((∀ x, fetchWord s ≠ .ok (encode (.opFX18 x))) →
      t.st.toNat = if s.cfg.timerMode = .perStep then s.st.toNat - 1 else s.st.toNat)

/-! ### Frames and rules of the whole machine -/

/-- Every instruction leaves unchanged every piece of the state that the spec does not name for it: memory but for FX33
and FX55, the stack but for 2NNN and 00EE, I but for its five writers, the display but for 00E0 and DXYN, the timers but
for FX15 and FX18, WAIT but for FX0A, the keypad and the parameters always (R34, R35, R40, R42, R46 to R49, R76). -/
def Obligations.EveryInstructionKeepsItsFrame : Prop :=
  ∀ (i : Instr) (s t : State), exec i s = .next t → onlyChanges (.result :: .faultMark :: mayWrite i) s t

/-- Every instruction leaves unchanged every general register that the table of R34 does not give it. -/
def Obligations.EveryInstructionKeepsOtherRegisters : Prop :=
  ∀ (i : Instr) (s t : State), exec i s = .next t → ∀ r, mayWriteReg i r = false → t.getV r = s.getV r

/-- A pending redraw is cleared only by the renderer's `ack_frame` (or a reset), and a step makes it pending only by
00E0 or DXYN (R47, R64). -/
def Obligations.RedrawIsClearedOnlyByTheHost : Prop :=
  (∀ (s t : State) (c : PortCall), runCall s c = .next t → s.redraw = true → t.redraw = false →
    c = .ackFrame ∨ c = .reset) ∧
  (∀ s t : State, step s = .next t → s.redraw = false → t.redraw = true →
    fetchWord s = .ok 0x00E0 ∨ ∃ x y n, fetchWord s = .ok (encode (.opDXYN x y n))) ∧
  (∀ s : State, ∃ t, portAckFrame s = .next t ∧ t.redraw = false ∧ onlyChanges [.redraw] s t)

/-- What no instruction reads never influences what it reads: from two states that differ only in ST, REDRAW, WAIT and
the model's own marks, a step gives the same result and states that again differ only there (R42, R47, R49). -/
def Obligations.UnreadStateHasNoInfluence : Prop :=
  ∀ s s' t : State, s.agreesOnRead s' → step s = .next t →
    ∃ t', step s' = .next t' ∧ t.agreesOnRead t' ∧ t'.result = t.result

/-! ### Invariants -/

/-- Every step keeps the canonical form of memory, the bound on the stack (R39) and the range of FONT_BASE (R9). -/
def Obligations.StepKeepsInvariant : Prop :=
  ∀ s t : State, s.Inv → step s = .next t → t.Inv

/-- Every session of port calls, in any order, keeps the invariant. -/
def Obligations.SessionKeepsInvariant : Prop :=
  ∀ (cs : List PortCall) (s : State), s.Inv → (runCalls s cs).Inv

/-- PC never passes 0x10FE, BNNN's largest target, and no stack entry passes 0x1000: every step keeps it (R131, R154). -/
def Obligations.StepKeepsPcBound : Prop :=
  ∀ s t : State, s.PcInv → step s = .next t → t.PcInv

/-- The invariants hold after reset, with any parameters in range. -/
def Obligations.ResetHasInvariants : Prop :=
  State.reset.Inv ∧ State.reset.PcInv ∧
  ∀ c : Config, c.valid → (State.resetWith c).Inv ∧ (State.resetWith c).PcInv

/-! ### Reset and load -/

/-- The construction state (R53, R290), for any parameters: PC is 0x200, memory is zero but for the glyph table at
FONT_BASE, and all else is zero, empty, released or not waiting. The values of the timers, the framebuffer, the redraw
flag, the keypad, the wait state and the stack are the spec's decision D17. -/
def Obligations.ResetValues : Prop :=
  ∀ c : Config,
    let s := State.resetWith c
    s.pc = 0x200 ∧ s.i = 0 ∧ s.dt = 0 ∧ s.st = 0 ∧ s.stack = [] ∧ s.fb = 0 ∧ s.redraw = false ∧
    s.wait = .notWaiting ∧ s.cfg = c ∧ (∀ r, s.getV r = 0) ∧ (∀ k (h : k < 16), s.key[k] = false) ∧
    (∀ k (h : k < 80), s.byteAt (c.fontBase + k) = c.glyphs[k]) ∧
    (∀ a, a < c.fontBase ∨ c.fontBase + 80 ≤ a → s.byteAt a = 0)

/-- `load(rom)` where it is defined (R292, R293): an unreadable stream or one of more than 3584 bytes changes nothing;
any other is placed verbatim from 0x200, every other byte stays, and from the construction state the bytes after it stay
0. -/
def Obligations.LoadPlacesTheRom : Prop :=
  (∀ s : State, s.loadOpen = true → portLoad none s = .next (.romUnreadable, s)) ∧
  (∀ (s : State) (rom : List Byte), s.loadOpen = true → rom.length > 3584 →
    portLoad (some rom) s = .next (.romTooLarge, s)) ∧
  (∀ (s : State) (rom : List Byte), s.loadOpen = true → s.Inv → rom.length ≤ 3584 →
    ∃ t, portLoad (some rom) s = .next (.ok, t) ∧
      (∀ k (h : k < rom.length), t.byteAt (0x200 + k) = rom[k]) ∧
      (∀ a, a < 0x200 ∨ 0x200 + rom.length ≤ a → t.byteAt a = s.byteAt a) ∧
      onlyChanges [.mem, .loadOpen] s t) ∧
  (∀ (c : Config) (rom : List Byte) (t : State), c.valid → rom.length ≤ 3584 →
    portLoad (some rom) (State.resetWith c) = .next (.ok, t) →
    ∀ a, 0x200 + rom.length ≤ a → a ≤ 0xFFF → t.byteAt a = 0)

/-- After a step or a successful load, `load` is refused until a reset (R294, decision D18; log 9). -/
def Obligations.LoadIsRefusedLater : Prop :=
  (∀ s t : State, step s = .next t → t.loadOpen = false) ∧
  (∀ (s t : State) (rom : Option (List Byte)), portLoad rom s = .next (.ok, t) → t.loadOpen = false) ∧
  (∀ (s : State) (rom : Option (List Byte)), s.loadOpen = false →
    portLoad rom s = .refused .loadNotAtConstruction) ∧
  (∀ s : State, ∃ t, portReset s = .next t ∧ t.loadOpen = true ∧ observe t = observe (State.resetWith s.cfg))

/-! ### Host ports and results -/

/-- The host's other ports: `set_key` writes one key and is refused above 15, `tick` ticks in `external_tick` mode and
does not exist in `per_step` mode, `pixel` reads one cell and answers OutOfBoundsAccess outside the display (R62, R63,
R65; decisions D2 and D23). -/
def Obligations.HostPortsDoOneThing : Prop :=
  (∀ (s : State) (k : Nat) (b : Bool), k < 16 →
    ∃ t, portSetKey k b s = .next t ∧
      (∀ q (h : q < 16), t.key[q] = if q = k then b else s.key[q]) ∧ onlyChanges [.key] s t) ∧
  (∀ (s : State) (k : Nat) (b : Bool), k > 15 → portSetKey k b s = .refused (.keyOutOfRange k)) ∧
  (∀ s : State, s.cfg.timerMode = .externalTick → portTick s = .next s.tick) ∧
  (∀ s : State, s.cfg.timerMode = .perStep → portTick s = .refused .noTickPort) ∧
  (∀ (s : State) (x y : Nat), x < 64 → y < 32 → portPixel s x y = .ok (s.fb.getLsbD (x + 64 * y))) ∧
  (∀ (s : State) (x y : Nat), x ≥ 64 ∨ y ≥ 32 →
    portPixel s x y = .error (.outOfBoundsAccess .display (x + 64 * y)))

/-- The record of a step's result (R261, R262, decision D19): none with Ok, and otherwise the code, pc0, the opcode, and
for OutOfBoundsAccess the space and the index. -/
def Obligations.ResultRecords : Prop :=
  resultInfo .ok = none ∧
  (∀ (pc op : Word), (resultInfo (.cond .unknownOpcode pc op)).map (fun r => codeNumber r.code) = some 1 ∧
    (resultInfo (.cond .unimplemented pc op)).map (fun r => codeNumber r.code) = some 2) ∧
  (∀ (c : Condition) (pc op : Word), ∃ r, resultInfo (.cond c pc op) = some r ∧
    r.pc = pc ∧ r.opcode = some op ∧ r.space = none ∧ r.addr = none) ∧
  (∀ (f : Fault) (pc : Word) (op : Option Word), ∃ r, resultInfo (.fault f pc op) = some r ∧
    r.pc = pc ∧ r.opcode = op ∧
    (f = .stackOverflow → codeNumber r.code = 3 ∧ r.space = none ∧ r.addr = none) ∧
    (f = .stackUnderflow → codeNumber r.code = 4 ∧ r.space = none ∧ r.addr = none) ∧
    (∀ sp a, f = .outOfBoundsAccess sp a → codeNumber r.code = 5 ∧ r.space = some sp ∧ r.addr = some a))
end

