-- ==== Sys2Proof/Laws/State.lean ====
section
/-! SUPPORT. What each update of the state leaves in each field. -/

namespace Sys2Proof.Machine

variable (s : State)

/-! ### setV -/

@[simp] theorem State.setV_v (r : Reg) (b : Byte) : (s.setV r b).v = s.v.set r.toNat b r.isLt := rfl
@[simp] theorem State.setV_i (r : Reg) (b : Byte) : (s.setV r b).i = s.i := rfl
@[simp] theorem State.setV_pc (r : Reg) (b : Byte) : (s.setV r b).pc = s.pc := rfl
@[simp] theorem State.setV_stack (r : Reg) (b : Byte) : (s.setV r b).stack = s.stack := rfl
@[simp] theorem State.setV_dt (r : Reg) (b : Byte) : (s.setV r b).dt = s.dt := rfl
@[simp] theorem State.setV_st (r : Reg) (b : Byte) : (s.setV r b).st = s.st := rfl
@[simp] theorem State.setV_mem (r : Reg) (b : Byte) : (s.setV r b).mem = s.mem := rfl
@[simp] theorem State.setV_fb (r : Reg) (b : Byte) : (s.setV r b).fb = s.fb := rfl
@[simp] theorem State.setV_redraw (r : Reg) (b : Byte) : (s.setV r b).redraw = s.redraw := rfl
@[simp] theorem State.setV_key (r : Reg) (b : Byte) : (s.setV r b).key = s.key := rfl
@[simp] theorem State.setV_wait (r : Reg) (b : Byte) : (s.setV r b).wait = s.wait := rfl
@[simp] theorem State.setV_cfg (r : Reg) (b : Byte) : (s.setV r b).cfg = s.cfg := rfl
@[simp] theorem State.setV_result (r : Reg) (b : Byte) : (s.setV r b).result = s.result := rfl
@[simp] theorem State.setV_faultMark (r : Reg) (b : Byte) : (s.setV r b).faultMark = s.faultMark := rfl
@[simp] theorem State.setV_draws (r : Reg) (b : Byte) : (s.setV r b).draws = s.draws := rfl
@[simp] theorem State.setV_loadOpen (r : Reg) (b : Byte) : (s.setV r b).loadOpen = s.loadOpen := rfl

/-! ### setThenFlag -/

@[simp] theorem State.setThenFlag_v (x : Reg) (r flag : Byte) : (s.setThenFlag x r flag).v = ((s.setV x r).setV regF flag).v := rfl
@[simp] theorem State.setThenFlag_i (x : Reg) (r flag : Byte) : (s.setThenFlag x r flag).i = s.i := rfl
@[simp] theorem State.setThenFlag_pc (x : Reg) (r flag : Byte) : (s.setThenFlag x r flag).pc = s.pc := rfl
@[simp] theorem State.setThenFlag_stack (x : Reg) (r flag : Byte) : (s.setThenFlag x r flag).stack = s.stack := rfl
@[simp] theorem State.setThenFlag_dt (x : Reg) (r flag : Byte) : (s.setThenFlag x r flag).dt = s.dt := rfl
@[simp] theorem State.setThenFlag_st (x : Reg) (r flag : Byte) : (s.setThenFlag x r flag).st = s.st := rfl
@[simp] theorem State.setThenFlag_mem (x : Reg) (r flag : Byte) : (s.setThenFlag x r flag).mem = s.mem := rfl
@[simp] theorem State.setThenFlag_fb (x : Reg) (r flag : Byte) : (s.setThenFlag x r flag).fb = s.fb := rfl
@[simp] theorem State.setThenFlag_redraw (x : Reg) (r flag : Byte) : (s.setThenFlag x r flag).redraw = s.redraw := rfl
@[simp] theorem State.setThenFlag_key (x : Reg) (r flag : Byte) : (s.setThenFlag x r flag).key = s.key := rfl
@[simp] theorem State.setThenFlag_wait (x : Reg) (r flag : Byte) : (s.setThenFlag x r flag).wait = s.wait := rfl
@[simp] theorem State.setThenFlag_cfg (x : Reg) (r flag : Byte) : (s.setThenFlag x r flag).cfg = s.cfg := rfl
@[simp] theorem State.setThenFlag_result (x : Reg) (r flag : Byte) : (s.setThenFlag x r flag).result = s.result := rfl
@[simp] theorem State.setThenFlag_faultMark (x : Reg) (r flag : Byte) : (s.setThenFlag x r flag).faultMark = s.faultMark := rfl
@[simp] theorem State.setThenFlag_draws (x : Reg) (r flag : Byte) : (s.setThenFlag x r flag).draws = s.draws := rfl
@[simp] theorem State.setThenFlag_loadOpen (x : Reg) (r flag : Byte) : (s.setThenFlag x r flag).loadOpen = s.loadOpen := rfl

/-! ### flagThenSet -/

@[simp] theorem State.flagThenSet_v (x : Reg) (r flag : Byte) : (s.flagThenSet x r flag).v = ((s.setV regF flag).setV x r).v := rfl
@[simp] theorem State.flagThenSet_i (x : Reg) (r flag : Byte) : (s.flagThenSet x r flag).i = s.i := rfl
@[simp] theorem State.flagThenSet_pc (x : Reg) (r flag : Byte) : (s.flagThenSet x r flag).pc = s.pc := rfl
@[simp] theorem State.flagThenSet_stack (x : Reg) (r flag : Byte) : (s.flagThenSet x r flag).stack = s.stack := rfl
@[simp] theorem State.flagThenSet_dt (x : Reg) (r flag : Byte) : (s.flagThenSet x r flag).dt = s.dt := rfl
@[simp] theorem State.flagThenSet_st (x : Reg) (r flag : Byte) : (s.flagThenSet x r flag).st = s.st := rfl
@[simp] theorem State.flagThenSet_mem (x : Reg) (r flag : Byte) : (s.flagThenSet x r flag).mem = s.mem := rfl
@[simp] theorem State.flagThenSet_fb (x : Reg) (r flag : Byte) : (s.flagThenSet x r flag).fb = s.fb := rfl
@[simp] theorem State.flagThenSet_redraw (x : Reg) (r flag : Byte) : (s.flagThenSet x r flag).redraw = s.redraw := rfl
@[simp] theorem State.flagThenSet_key (x : Reg) (r flag : Byte) : (s.flagThenSet x r flag).key = s.key := rfl
@[simp] theorem State.flagThenSet_wait (x : Reg) (r flag : Byte) : (s.flagThenSet x r flag).wait = s.wait := rfl
@[simp] theorem State.flagThenSet_cfg (x : Reg) (r flag : Byte) : (s.flagThenSet x r flag).cfg = s.cfg := rfl
@[simp] theorem State.flagThenSet_result (x : Reg) (r flag : Byte) : (s.flagThenSet x r flag).result = s.result := rfl
@[simp] theorem State.flagThenSet_faultMark (x : Reg) (r flag : Byte) : (s.flagThenSet x r flag).faultMark = s.faultMark := rfl
@[simp] theorem State.flagThenSet_draws (x : Reg) (r flag : Byte) : (s.flagThenSet x r flag).draws = s.draws := rfl
@[simp] theorem State.flagThenSet_loadOpen (x : Reg) (r flag : Byte) : (s.flagThenSet x r flag).loadOpen = s.loadOpen := rfl

/-! ### loadV -/

@[simp] theorem State.loadV_v (bs : List Byte) : (s.loadV bs).v = fillV s.v 0 bs := rfl
@[simp] theorem State.loadV_i (bs : List Byte) : (s.loadV bs).i = s.i := rfl
@[simp] theorem State.loadV_pc (bs : List Byte) : (s.loadV bs).pc = s.pc := rfl
@[simp] theorem State.loadV_stack (bs : List Byte) : (s.loadV bs).stack = s.stack := rfl
@[simp] theorem State.loadV_dt (bs : List Byte) : (s.loadV bs).dt = s.dt := rfl
@[simp] theorem State.loadV_st (bs : List Byte) : (s.loadV bs).st = s.st := rfl
@[simp] theorem State.loadV_mem (bs : List Byte) : (s.loadV bs).mem = s.mem := rfl
@[simp] theorem State.loadV_fb (bs : List Byte) : (s.loadV bs).fb = s.fb := rfl
@[simp] theorem State.loadV_redraw (bs : List Byte) : (s.loadV bs).redraw = s.redraw := rfl
@[simp] theorem State.loadV_key (bs : List Byte) : (s.loadV bs).key = s.key := rfl
@[simp] theorem State.loadV_wait (bs : List Byte) : (s.loadV bs).wait = s.wait := rfl
@[simp] theorem State.loadV_cfg (bs : List Byte) : (s.loadV bs).cfg = s.cfg := rfl
@[simp] theorem State.loadV_result (bs : List Byte) : (s.loadV bs).result = s.result := rfl
@[simp] theorem State.loadV_faultMark (bs : List Byte) : (s.loadV bs).faultMark = s.faultMark := rfl
@[simp] theorem State.loadV_draws (bs : List Byte) : (s.loadV bs).draws = s.draws := rfl
@[simp] theorem State.loadV_loadOpen (bs : List Byte) : (s.loadV bs).loadOpen = s.loadOpen := rfl

/-! ### tick -/

@[simp] theorem State.tick_v : s.tick.v = s.v := rfl
@[simp] theorem State.tick_i : s.tick.i = s.i := rfl
@[simp] theorem State.tick_pc : s.tick.pc = s.pc := rfl
@[simp] theorem State.tick_stack : s.tick.stack = s.stack := rfl
@[simp] theorem State.tick_dt : s.tick.dt = countDown s.dt := rfl
@[simp] theorem State.tick_st : s.tick.st = countDown s.st := rfl
@[simp] theorem State.tick_mem : s.tick.mem = s.mem := rfl
@[simp] theorem State.tick_fb : s.tick.fb = s.fb := rfl
@[simp] theorem State.tick_redraw : s.tick.redraw = s.redraw := rfl
@[simp] theorem State.tick_key : s.tick.key = s.key := rfl
@[simp] theorem State.tick_wait : s.tick.wait = s.wait := rfl
@[simp] theorem State.tick_cfg : s.tick.cfg = s.cfg := rfl
@[simp] theorem State.tick_result : s.tick.result = s.result := rfl
@[simp] theorem State.tick_faultMark : s.tick.faultMark = s.faultMark := rfl
@[simp] theorem State.tick_draws : s.tick.draws = s.draws := rfl
@[simp] theorem State.tick_loadOpen : s.tick.loadOpen = s.loadOpen := rfl

/-! ### advance -/

@[simp] theorem State.advance_v : s.advance.v = s.v := rfl
@[simp] theorem State.advance_i : s.advance.i = s.i := rfl
@[simp] theorem State.advance_pc : s.advance.pc = s.pc + 2 := rfl
@[simp] theorem State.advance_stack : s.advance.stack = s.stack := rfl
@[simp] theorem State.advance_dt : s.advance.dt = s.dt := rfl
@[simp] theorem State.advance_st : s.advance.st = s.st := rfl
@[simp] theorem State.advance_mem : s.advance.mem = s.mem := rfl
@[simp] theorem State.advance_fb : s.advance.fb = s.fb := rfl
@[simp] theorem State.advance_redraw : s.advance.redraw = s.redraw := rfl
@[simp] theorem State.advance_key : s.advance.key = s.key := rfl
@[simp] theorem State.advance_wait : s.advance.wait = s.wait := rfl
@[simp] theorem State.advance_cfg : s.advance.cfg = s.cfg := rfl
@[simp] theorem State.advance_result : s.advance.result = s.result := rfl
@[simp] theorem State.advance_faultMark : s.advance.faultMark = s.faultMark := rfl
@[simp] theorem State.advance_draws : s.advance.draws = s.draws := rfl
@[simp] theorem State.advance_loadOpen : s.advance.loadOpen = s.loadOpen := rfl

/-! ### rewind -/

@[simp] theorem State.rewind_v : s.rewind.v = s.v := rfl
@[simp] theorem State.rewind_i : s.rewind.i = s.i := rfl
@[simp] theorem State.rewind_pc : s.rewind.pc = s.pc - 2 := rfl
@[simp] theorem State.rewind_stack : s.rewind.stack = s.stack := rfl
@[simp] theorem State.rewind_dt : s.rewind.dt = s.dt := rfl
@[simp] theorem State.rewind_st : s.rewind.st = s.st := rfl
@[simp] theorem State.rewind_mem : s.rewind.mem = s.mem := rfl
@[simp] theorem State.rewind_fb : s.rewind.fb = s.fb := rfl
@[simp] theorem State.rewind_redraw : s.rewind.redraw = s.redraw := rfl
@[simp] theorem State.rewind_key : s.rewind.key = s.key := rfl
@[simp] theorem State.rewind_wait : s.rewind.wait = s.wait := rfl
@[simp] theorem State.rewind_cfg : s.rewind.cfg = s.cfg := rfl
@[simp] theorem State.rewind_result : s.rewind.result = s.result := rfl
@[simp] theorem State.rewind_faultMark : s.rewind.faultMark = s.faultMark := rfl
@[simp] theorem State.rewind_draws : s.rewind.draws = s.draws := rfl
@[simp] theorem State.rewind_loadOpen : s.rewind.loadOpen = s.loadOpen := rfl

/-! ### jump -/

@[simp] theorem State.jump_v (w : Word) : (s.jump w).v = s.v := rfl
@[simp] theorem State.jump_i (w : Word) : (s.jump w).i = s.i := rfl
@[simp] theorem State.jump_pc (w : Word) : (s.jump w).pc = w := rfl
@[simp] theorem State.jump_stack (w : Word) : (s.jump w).stack = s.stack := rfl
@[simp] theorem State.jump_dt (w : Word) : (s.jump w).dt = s.dt := rfl
@[simp] theorem State.jump_st (w : Word) : (s.jump w).st = s.st := rfl
@[simp] theorem State.jump_mem (w : Word) : (s.jump w).mem = s.mem := rfl
@[simp] theorem State.jump_fb (w : Word) : (s.jump w).fb = s.fb := rfl
@[simp] theorem State.jump_redraw (w : Word) : (s.jump w).redraw = s.redraw := rfl
@[simp] theorem State.jump_key (w : Word) : (s.jump w).key = s.key := rfl
@[simp] theorem State.jump_wait (w : Word) : (s.jump w).wait = s.wait := rfl
@[simp] theorem State.jump_cfg (w : Word) : (s.jump w).cfg = s.cfg := rfl
@[simp] theorem State.jump_result (w : Word) : (s.jump w).result = s.result := rfl
@[simp] theorem State.jump_faultMark (w : Word) : (s.jump w).faultMark = s.faultMark := rfl
@[simp] theorem State.jump_draws (w : Word) : (s.jump w).draws = s.draws := rfl
@[simp] theorem State.jump_loadOpen (w : Word) : (s.jump w).loadOpen = s.loadOpen := rfl

/-! ### skipIf -/

@[simp] theorem State.skipIf_v (b : Bool) : (s.skipIf b).v = s.v := rfl
@[simp] theorem State.skipIf_i (b : Bool) : (s.skipIf b).i = s.i := rfl
@[simp] theorem State.skipIf_pc (b : Bool) : (s.skipIf b).pc = if b then s.pc + 2 else s.pc := rfl
@[simp] theorem State.skipIf_stack (b : Bool) : (s.skipIf b).stack = s.stack := rfl
@[simp] theorem State.skipIf_dt (b : Bool) : (s.skipIf b).dt = s.dt := rfl
@[simp] theorem State.skipIf_st (b : Bool) : (s.skipIf b).st = s.st := rfl
@[simp] theorem State.skipIf_mem (b : Bool) : (s.skipIf b).mem = s.mem := rfl
@[simp] theorem State.skipIf_fb (b : Bool) : (s.skipIf b).fb = s.fb := rfl
@[simp] theorem State.skipIf_redraw (b : Bool) : (s.skipIf b).redraw = s.redraw := rfl
@[simp] theorem State.skipIf_key (b : Bool) : (s.skipIf b).key = s.key := rfl
@[simp] theorem State.skipIf_wait (b : Bool) : (s.skipIf b).wait = s.wait := rfl
@[simp] theorem State.skipIf_cfg (b : Bool) : (s.skipIf b).cfg = s.cfg := rfl
@[simp] theorem State.skipIf_result (b : Bool) : (s.skipIf b).result = s.result := rfl
@[simp] theorem State.skipIf_faultMark (b : Bool) : (s.skipIf b).faultMark = s.faultMark := rfl
@[simp] theorem State.skipIf_draws (b : Bool) : (s.skipIf b).draws = s.draws := rfl
@[simp] theorem State.skipIf_loadOpen (b : Bool) : (s.skipIf b).loadOpen = s.loadOpen := rfl

/-! ### draw -/

@[simp] theorem State.draw_v : s.draw.2.v = s.v := rfl
@[simp] theorem State.draw_i : s.draw.2.i = s.i := rfl
@[simp] theorem State.draw_pc : s.draw.2.pc = s.pc := rfl
@[simp] theorem State.draw_stack : s.draw.2.stack = s.stack := rfl
@[simp] theorem State.draw_dt : s.draw.2.dt = s.dt := rfl
@[simp] theorem State.draw_st : s.draw.2.st = s.st := rfl
@[simp] theorem State.draw_mem : s.draw.2.mem = s.mem := rfl
@[simp] theorem State.draw_fb : s.draw.2.fb = s.fb := rfl
@[simp] theorem State.draw_redraw : s.draw.2.redraw = s.redraw := rfl
@[simp] theorem State.draw_key : s.draw.2.key = s.key := rfl
@[simp] theorem State.draw_wait : s.draw.2.wait = s.wait := rfl
@[simp] theorem State.draw_cfg : s.draw.2.cfg = s.cfg := rfl
@[simp] theorem State.draw_result : s.draw.2.result = s.result := rfl
@[simp] theorem State.draw_faultMark : s.draw.2.faultMark = s.faultMark := rfl
@[simp] theorem State.draw_draws : s.draw.2.draws = s.draws + 1 := rfl
@[simp] theorem State.draw_loadOpen : s.draw.2.loadOpen = s.loadOpen := rfl

/-! ### beginStep -/

@[simp] theorem beginStep_v : (beginStep s).v = s.v := by unfold beginStep; cases s.cfg.timerMode <;> rfl
@[simp] theorem beginStep_i : (beginStep s).i = s.i := by unfold beginStep; cases s.cfg.timerMode <;> rfl
@[simp] theorem beginStep_pc : (beginStep s).pc = s.pc := by unfold beginStep; cases s.cfg.timerMode <;> rfl
@[simp] theorem beginStep_stack : (beginStep s).stack = s.stack := by unfold beginStep; cases s.cfg.timerMode <;> rfl
@[simp] theorem beginStep_mem : (beginStep s).mem = s.mem := by unfold beginStep; cases s.cfg.timerMode <;> rfl
@[simp] theorem beginStep_fb : (beginStep s).fb = s.fb := by unfold beginStep; cases s.cfg.timerMode <;> rfl
@[simp] theorem beginStep_redraw : (beginStep s).redraw = s.redraw := by unfold beginStep; cases s.cfg.timerMode <;> rfl
@[simp] theorem beginStep_key : (beginStep s).key = s.key := by unfold beginStep; cases s.cfg.timerMode <;> rfl
@[simp] theorem beginStep_wait : (beginStep s).wait = s.wait := by unfold beginStep; cases s.cfg.timerMode <;> rfl
@[simp] theorem beginStep_cfg : (beginStep s).cfg = s.cfg := by unfold beginStep; cases s.cfg.timerMode <;> rfl
@[simp] theorem beginStep_result : (beginStep s).result = s.result := by unfold beginStep; cases s.cfg.timerMode <;> rfl
@[simp] theorem beginStep_faultMark : (beginStep s).faultMark = s.faultMark := by unfold beginStep; cases s.cfg.timerMode <;> rfl
@[simp] theorem beginStep_draws : (beginStep s).draws = s.draws := by unfold beginStep; cases s.cfg.timerMode <;> rfl
@[simp] theorem beginStep_loadOpen : (beginStep s).loadOpen = false := by unfold beginStep; cases s.cfg.timerMode <;> rfl

/-! ### Bytes of memory and registers -/

@[simp] theorem State.setV_byteAt (r : Reg) (b : Byte) (a : Nat) : (s.setV r b).byteAt a = s.byteAt a := rfl
@[simp] theorem State.setThenFlag_byteAt (x : Reg) (r flag : Byte) (a : Nat) : (s.setThenFlag x r flag).byteAt a = s.byteAt a := rfl
@[simp] theorem State.flagThenSet_byteAt (x : Reg) (r flag : Byte) (a : Nat) : (s.flagThenSet x r flag).byteAt a = s.byteAt a := rfl
@[simp] theorem State.loadV_byteAt (bs : List Byte) (a : Nat) : (s.loadV bs).byteAt a = s.byteAt a := rfl
@[simp] theorem State.tick_byteAt (a : Nat) : s.tick.byteAt a = s.byteAt a := rfl
@[simp] theorem State.advance_byteAt (a : Nat) : s.advance.byteAt a = s.byteAt a := rfl
@[simp] theorem State.rewind_byteAt (a : Nat) : s.rewind.byteAt a = s.byteAt a := rfl
@[simp] theorem State.jump_byteAt (w : Word) (a : Nat) : (s.jump w).byteAt a = s.byteAt a := rfl
@[simp] theorem State.skipIf_byteAt (b : Bool) (a : Nat) : (s.skipIf b).byteAt a = s.byteAt a := rfl
@[simp] theorem State.draw_byteAt (a : Nat) : s.draw.2.byteAt a = s.byteAt a := rfl
@[simp] theorem State.tick_getV (q : Reg) : s.tick.getV q = s.getV q := rfl
@[simp] theorem State.advance_getV (q : Reg) : s.advance.getV q = s.getV q := rfl
@[simp] theorem State.rewind_getV (q : Reg) : s.rewind.getV q = s.getV q := rfl
@[simp] theorem State.jump_getV (w : Word) (q : Reg) : (s.jump w).getV q = s.getV q := rfl
@[simp] theorem State.skipIf_getV (b : Bool) (q : Reg) : (s.skipIf b).getV q = s.getV q := rfl
@[simp] theorem State.draw_getV (q : Reg) : s.draw.2.getV q = s.getV q := rfl
@[simp] theorem beginStep_getV (q : Reg) : (beginStep s).getV q = s.getV q := by
  unfold beginStep; cases s.cfg.timerMode <;> rfl

/-- The delay timer after the start of a step (R130, R141). -/
theorem beginStep_dt : (beginStep s).dt = if s.cfg.timerMode = .perStep then countDown s.dt else s.dt := by
  unfold beginStep; cases s.cfg.timerMode <;> rfl

/-- The sound timer after the start of a step (R130, R141). -/
theorem beginStep_st : (beginStep s).st = if s.cfg.timerMode = .perStep then countDown s.st else s.st := by
  unfold beginStep; cases s.cfg.timerMode <;> rfl

/-- The start of a step changes no byte. -/
@[simp] theorem beginStep_byteAt (a : Nat) : (beginStep s).byteAt a = s.byteAt a := by
  simp [State.byteAt]

/-- The fetch does not depend on the start of the step. -/
@[simp] theorem fetchWord_beginStep : fetchWord (beginStep s) = fetchWord s := by
  simp [fetchWord]

end Sys2Proof.Machine
end

