-- ==== Sys2Proof/Laws/Registers.lean ====
section
/-! SUPPORT. Reading and writing general registers, one at a time and in blocks. -/

namespace Sys2Proof.Machine

/-- A register read after a write of a register. -/
theorem State.getV_setV (s : State) (r q : Reg) (b : Byte) :
    (s.setV r b).getV q = if q = r then b else s.getV q := by
  unfold State.getV State.setV
  simp only [Vector.getElem_set, ← BitVec.toNat_inj]
  split <;> split <;> first | rfl | omega

@[simp] theorem State.getV_setV_same (s : State) (r : Reg) (b : Byte) : (s.setV r b).getV r = b := by
  simp [State.getV_setV]

/-- A register read after 8XY1 to 8XY3's pair of writes: the flag stands where both meet (R183). -/
theorem State.getV_setThenFlag (s : State) (x q : Reg) (r flag : Byte) :
    (s.setThenFlag x r flag).getV q = if q = regF then flag else if q = x then r else s.getV q := by
  simp [State.setThenFlag, State.getV_setV]

/-- A register read after 8XY4 to 8XYE's pair of writes: the result stands where both meet (R183). -/
theorem State.getV_flagThenSet (s : State) (x q : Reg) (r flag : Byte) :
    (s.flagThenSet x r flag).getV q = if q = x then r else if q = regF then flag else s.getV q := by
  simp [State.flagThenSet, State.getV_setV]

/-- States with the same register file read the same registers. -/
theorem State.getV_congr {s t : State} (h : t.v = s.v) (r : Reg) : t.getV r = s.getV r := by
  simp [State.getV, h]

/-- The block of registers FX55 stores has a byte per register. -/
theorem State.blockV_length (s : State) {n : Nat} (h : n ≤ 16) : (s.blockV n).length = n := by
  simp [State.blockV, h]

/-- Byte `k` of the block FX55 stores is `V[k]` (R204). -/
theorem State.blockV_getElem (s : State) {n k : Nat} (hk : k < n) (hn : n ≤ 16) :
    (s.blockV n)[k]? = some (s.getV (BitVec.ofNat 4 k)) := by
  have h16 : k < 16 := by omega
  have hm : k % 2 ^ 4 = k := Nat.mod_eq_of_lt h16
  have e : s.v[k]? = some s.v[k] := Vector.getElem?_eq_getElem h16
  simp only [State.blockV, State.getV, List.getElem?_take, hk, if_true, BitVec.toNat_ofNat, hm]
  rw [← e]
  simp

/-- A register after a block is filled in: its byte of the block, or what it was. -/
theorem fillV_getElem (v : Vector Byte 16) (k : Nat) (bs : List Byte) (j : Nat) (hj : j < 16) :
    (fillV v k bs)[j] = if h : k ≤ j ∧ j < k + bs.length then bs[j - k]'(by omega) else v[j] := by
  induction bs generalizing v k with
  | nil => simp [fillV]
  | cons b bs ih =>
    rw [fillV, ih]
    by_cases hkj : k = j
    · subst hkj; simp
    · by_cases hlt : k + 1 ≤ j ∧ j < k + 1 + bs.length
      · have h2 : k ≤ j ∧ j < k + (b :: bs).length := by simp; omega
        rw [dif_pos hlt, dif_pos h2]
        have e : j - k = (j - (k + 1)) + 1 := by omega
        simp [e]
      · have h2 : ¬ (k ≤ j ∧ j < k + (b :: bs).length) := by simp; omega
        rw [dif_neg hlt, dif_neg h2]
        simp [hkj]

end Sys2Proof.Machine
end

