-- ==== Sys2Proof/Laws/Memory.lean ====
section
/-! SUPPORT. Memory: reads after writes, and that every operation keeps the canonical form. -/

namespace Sys2Proof.Machine

/-- An address below every listed one reads as unlisted. -/
theorem Memory.read_of_lt (c : Config) {m : Memory} {a : Nat} (h : ∀ p ∈ m, a < p.1) :
    Memory.read c m a = initByte c a := by
  induction m with
  | nil => rfl
  | cons p m ih =>
    obtain ⟨k, b⟩ := p
    have hk : a < k := h (k, b) (by simp)
    rw [Memory.read, if_neg (by omega)]
    exact ih fun q hq => h q (by simp [hq])

/-- A byte read after a byte is written (R78). -/
theorem Memory.read_write (c : Config) {m : Memory} (hm : m.Pairwise (fun p q => p.1 < q.1)) (a a' : Nat)
    (b : Byte) : Memory.read c (Memory.write c m a b) a' = if a' = a then b else Memory.read c m a' := by
  induction m with
  | nil =>
    simp only [Memory.write]
    split
    · by_cases e : a' = a <;> simp_all [Memory.read]
    · rfl
  | cons p m ih =>
    obtain ⟨k, d⟩ := p
    rw [List.pairwise_cons] at hm
    have ih := ih hm.2
    simp only [Memory.write]
    split
    · rename_i hlt
      split
      · rename_i hb
        by_cases e : a' = a
        · subst e
          have : Memory.read c ((k, d) :: m) a' = initByte c a' :=
            Memory.read_of_lt c fun q hq => by
              rcases List.mem_cons.1 hq with rfl | hq
              · exact hlt
              · have := hm.1 q hq; simp only at this; omega
          simp [this, hb]
        · simp [e]
      · simp [Memory.read]
    · split
      · rename_i h1 h2
        subst h2
        split
        · rename_i hb
          by_cases e : a' = a
          · subst e
            simp [Memory.read_of_lt c hm.1, hb]
          · simp [Memory.read, e]
        · by_cases e : a' = a <;> simp [Memory.read, e]
      · rename_i h1 h2
        simp only [Memory.read, ih]
        by_cases e : a' = k
        · have : a' ≠ a := fun h => h2 (by omega)
          simp [e]; omega
        · simp [e]

/-- Where a written memory's cells come from. -/
theorem Memory.mem_write (c : Config) {m : Memory} {a : Nat} {b : Byte} {p : Host.Cell}
    (h : p ∈ Memory.write c m a b) : p ∈ m ∨ (p = (a, b) ∧ b ≠ initByte c a) := by
  induction m with
  | nil =>
    simp only [Memory.write] at h
    split at h <;> simp_all
  | cons q m ih =>
    obtain ⟨k, d⟩ := q
    simp only [Memory.write] at h
    split at h
    · split at h
      · exact .inl h
      · rcases List.mem_cons.1 h with rfl | h
        · right; simp_all
        · exact .inl h
    · split at h
      · split at h
        · exact .inl (List.mem_cons_of_mem _ h)
        · rcases List.mem_cons.1 h with rfl | h
          · right; simp_all
          · exact .inl (List.mem_cons_of_mem _ h)
      · rcases List.mem_cons.1 h with rfl | h
        · exact .inl (by simp)
        · rcases ih h with h | h
          · exact .inl (List.mem_cons_of_mem _ h)
          · exact .inr h

/-- A write keeps the canonical form. -/
theorem Memory.write_wf {c : Config} {m : Memory} (hm : Memory.wf c m) {a : Nat} (ha : a < memSize) (b : Byte) :
    Memory.wf c (Memory.write c m a b) := by
  refine ⟨?_, fun p hp => ?_⟩
  · have hp := hm.1
    clear hm
    induction m with
    | nil => simp only [Memory.write]; split <;> simp
    | cons q m ih =>
      obtain ⟨k, d⟩ := q
      have hk := List.pairwise_cons.1 hp
      simp only [Memory.write]
      split
      · rename_i hlt
        split
        · exact hp
        · refine List.pairwise_cons.2 ⟨fun q hq => ?_, hp⟩
          rcases List.mem_cons.1 hq with rfl | hq
          · exact hlt
          · have := hk.1 q hq; simp only at this ⊢; omega
      · split
        · rename_i h2
          subst h2
          split
          · exact hk.2
          · exact List.pairwise_cons.2 ⟨hk.1, hk.2⟩
        · rename_i h1 h2
          refine List.pairwise_cons.2 ⟨fun q hq => ?_, ih hk.2⟩
          rcases Memory.mem_write c hq with hq | ⟨rfl, -⟩
          · exact hk.1 q hq
          · simp only; omega
  · rcases Memory.mem_write c hp with h | ⟨rfl, h⟩
    · exact hm.2 p h
    · exact ⟨ha, h⟩

/-- Writing bytes in turn keeps the canonical form. -/
theorem Memory.writeBytes_wf {c : Config} {m : Memory} (hm : Memory.wf c m) {a : Nat} {bs : List Byte}
    (ha : a + bs.length ≤ memSize) : Memory.wf c (Memory.writeBytes c m a bs) := by
  induction bs generalizing m a with
  | nil => exact hm
  | cons b bs ih =>
    simp only [List.length_cons] at ha
    exact ih (Memory.write_wf hm (by omega) b) (by omega)

/-- A byte read after bytes are written in turn (R78, R204). -/
theorem Memory.read_writeBytes {c : Config} {m : Memory} (hm : Memory.wf c m) {a : Nat} {bs : List Byte}
    (ha : a + bs.length ≤ memSize) (a' : Nat) :
    Memory.read c (Memory.writeBytes c m a bs) a' =
      if h : a ≤ a' ∧ a' < a + bs.length then bs[a' - a]'(by omega) else Memory.read c m a' := by
  induction bs generalizing m a with
  | nil => simp [Memory.writeBytes]
  | cons b bs ih =>
    simp only [List.length_cons] at ha
    rw [Memory.writeBytes, ih (Memory.write_wf hm (by omega) b) (by omega), Memory.read_write c hm.1]
    by_cases e : a' = a
    · subst e; simp
    · by_cases h : a + 1 ≤ a' ∧ a' < a + 1 + bs.length
      · have h2 : a ≤ a' ∧ a' < a + (b :: bs).length := by simp; omega
        have e2 : a' - a = (a' - (a + 1)) + 1 := by omega
        rw [dif_pos h, dif_pos h2]
        simp [e2]
      · have h2 : ¬ (a ≤ a' ∧ a' < a + (b :: bs).length) := by simp; omega
        rw [dif_neg h, dif_neg h2, if_neg e]

@[simp] theorem Memory.readBytes_length (c : Config) (m : Memory) (a n : Nat) :
    (Memory.readBytes c m a n).length = n := by
  induction n generalizing a with
  | zero => rfl
  | succ n ih => simp [Memory.readBytes, ih]

/-- Byte `k` of a read of `n` bytes. -/
theorem Memory.readBytes_getElem (c : Config) (m : Memory) (a n k : Nat) (h : k < n) :
    (Memory.readBytes c m a n)[k]'(by simpa using h) = Memory.read c m (a + k) := by
  induction n generalizing a k with
  | zero => omega
  | succ n ih =>
    cases k with
    | zero => rfl
    | succ k =>
      have := ih (a + 1) k (by omega)
      simp only [Memory.readBytes, List.getElem_cons_succ, this]
      congr 1; omega

/-- Placing a word where the fetch reads it keeps the canonical form. -/
theorem placeWord_wf (s : State) (op : Word) (h : Memory.wf s.cfg s.mem) :
    Memory.wf s.cfg (placeWord s op).mem := by
  unfold placeWord
  split
  · exact Memory.writeBytes_wf h (by simpa using ‹_›)
  · exact h

/-- Memory at reset is in canonical form: it lists nothing. -/
theorem resetWith_mem_wf (c : Config) : Memory.wf c (State.resetWith c).mem := ⟨.nil, by simp [State.resetWith]⟩

end Sys2Proof.Machine
end

