-- ==== Sys2Proof/Laws/Answers.lean ====
section
/-! SUPPORT. What each shared operation can do: one lemma per operation, which says all its cases. -/

namespace Sys2Proof.Machine

/-- The bounds check passes exactly when no byte or only bytes of memory are accessed (R14, R73, R225). -/
theorem boundsFault_none {sp : Space} {a n : Nat} :
    boundsFault sp a n = none ↔ n = 0 ∨ a + n ≤ memSize := by
  unfold boundsFault
  split
  · simp; omega
  · simp; omega

/-- The fault of a bounds check that fails (R14, R262). -/
theorem boundsFault_some {sp : Space} {a n : Nat} {f : Fault} :
    boundsFault sp a n = some f ↔ (n ≠ 0 ∧ a + n > memSize) ∧ f = .outOfBoundsAccess sp (max a memSize) := by
  unfold boundsFault
  split
  · simp_all [eq_comm]
  · simp_all

/-- A checked read (R14). -/
theorem State.memRead_cases (s : State) (a n : Nat) :
    ((n = 0 ∨ a + n ≤ memSize) ∧ s.memRead a n = .ok (Memory.readBytes s.cfg s.mem a n)) ∨
    ((n ≠ 0 ∧ a + n > memSize) ∧ s.memRead a n = .error (.outOfBoundsAccess .memory (max a memSize))) := by
  unfold State.memRead
  cases h : boundsFault .memory a n with
  | none => exact .inl ⟨boundsFault_none.1 h, rfl⟩
  | some f => obtain ⟨h1, rfl⟩ := boundsFault_some.1 h; exact .inr ⟨h1, rfl⟩

/-- A checked write (R14, R77). -/
theorem State.memWrite_cases (s : State) (a : Nat) (bs : List Byte) :
    ((bs.length = 0 ∨ a + bs.length ≤ memSize) ∧
      s.memWrite a bs = .ok { s with mem := Memory.writeBytes s.cfg s.mem a bs }) ∨
    ((bs.length ≠ 0 ∧ a + bs.length > memSize) ∧
      s.memWrite a bs = .error (.outOfBoundsAccess .memory (max a memSize))) := by
  unfold State.memWrite
  cases h : boundsFault .memory a bs.length with
  | none => exact .inl ⟨boundsFault_none.1 h, rfl⟩
  | some f => obtain ⟨h1, rfl⟩ := boundsFault_some.1 h; exact .inr ⟨h1, rfl⟩

/-- A push (R40). -/
theorem State.push_cases (s : State) (w : Word) :
    (s.stack.length < stackDepth ∧ s.push w = .ok { s with stack := w :: s.stack }) ∨
    (stackDepth ≤ s.stack.length ∧ s.push w = .error .stackOverflow) := by
  unfold State.push
  split
  · exact .inr ⟨‹_›, rfl⟩
  · exact .inl ⟨by omega, rfl⟩

/-- A pop (R40). -/
theorem State.pop_cases (s : State) :
    (∃ w ws, s.stack = w :: ws ∧ s.pop = .ok (w, { s with stack := ws })) ∨
    (s.stack = [] ∧ s.pop = .error .stackUnderflow) := by
  unfold State.pop
  cases h : s.stack with
  | nil => exact .inr ⟨rfl, rfl⟩
  | cons w ws => exact .inl ⟨w, ws, rfl, rfl⟩

/-- A key looked up (R240). -/
theorem State.keyAt_cases (s : State) (k : Byte) :
    (∃ h : k.toNat < 16, s.keyAt k = .ok s.key[k.toNat]) ∨
    (16 ≤ k.toNat ∧ s.keyAt k = .error (.outOfBoundsAccess .keypad k.toNat)) := by
  unfold State.keyAt
  split
  · exact .inl ⟨‹_›, rfl⟩
  · exact .inr ⟨by omega, rfl⟩

/-- The search from key `k` on finds the lowest pressed key, or none is pressed. -/
theorem lowestFrom_cases (key : Vector Bool 16) (k n : Nat) :
    (∃ j, lowestFrom key k n = some j ∧ k ≤ j ∧ j < k + n ∧ key.getD j false = true ∧
      ∀ q, k ≤ q → q < j → key.getD q false = false) ∨
    (lowestFrom key k n = none ∧ ∀ q, k ≤ q → q < k + n → key.getD q false = false) := by
  induction n generalizing k with
  | zero => exact .inr ⟨rfl, fun q h1 h2 => by omega⟩
  | succ n ih =>
    rw [lowestFrom]
    by_cases hk : key.getD k false = true
    · exact .inl ⟨k, by simp [hk], by omega, by omega, hk, fun q h1 h2 => by omega⟩
    · rw [if_neg hk]
      have hk : key.getD k false = false := by simpa using hk
      have below (q : Nat) (h : k ≤ q) : q = k ∨ k + 1 ≤ q := by omega
      rcases ih (k + 1) with ⟨j, h1, h2, h3, h4, h5⟩ | ⟨h1, h2⟩
      · refine .inl ⟨j, h1, by omega, by omega, h4, fun q hq hj => ?_⟩
        rcases below q hq with rfl | h
        · exact hk
        · exact h5 q h hj
      · refine .inr ⟨h1, fun q hq hn => ?_⟩
        rcases below q hq with rfl | h
        · exact hk
        · exact h2 q h (by omega)

/-- The end of an instruction that may raise: both cases (R135). -/
theorem finish_cases (op : Word) (s : State) (r : Except Fault State) :
    (∃ t, r = .ok t ∧ finish op s r = .next { t with result := some .ok }) ∨
    (∃ f, r = .error f ∧
      finish op s r = .next { s with result := some (.fault f s.pc0 (some op)), faultMark := true }) := by
  cases r with
  | ok t => exact .inl ⟨t, rfl, rfl⟩
  | error f => exact .inr ⟨f, rfl, rfl⟩

/-- The fetch (R131): the word at PC, or the fault with the lowest address above 0xFFF. -/
theorem fetchWord_cases (s : State) :
    (s.pc.toNat + 2 ≤ memSize ∧
      fetchWord s = .ok (combine (s.byteAt s.pc.toNat) (s.byteAt (s.pc.toNat + 1)))) ∨
    (s.pc.toNat + 2 > memSize ∧ fetchWord s = .error (.outOfBoundsAccess .fetch (max s.pc.toNat memSize))) := by
  unfold fetchWord
  cases h : boundsFault .fetch s.pc.toNat 2 with
  | none => exact .inl ⟨(boundsFault_none.1 h).resolve_left (by omega), rfl⟩
  | some f => obtain ⟨h1, rfl⟩ := boundsFault_some.1 h; exact .inr ⟨h1.2, rfl⟩

end Sys2Proof.Machine
end

