-- ==== Sys2Proof/Laws/Decode.lean ====
section
/-! SUPPORT. The fields of a word written in the formats of R102. -/

namespace Sys2Proof

/-- A word is its class followed by NNN (format FA). -/
theorem word_eq_class_nnn (op : Word) : op = fieldClass op ++ fieldNNN op := by
  apply BitVec.eq_of_toNat_eq
  simp only [fieldClass, fieldNNN, BitVec.toNat_append, BitVec.extractLsb'_toNat, Nat.shiftLeft_eq,
    Nat.shiftRight_eq_div_pow]
  rw [Nat.mul_comm, ← Nat.two_pow_add_eq_or_of_lt (by omega)]
  have := op.isLt
  omega

/-- NNN is X followed by NN. -/
theorem nnn_eq_x_nn (op : Word) : fieldNNN op = fieldX op ++ fieldNN op := by
  apply BitVec.eq_of_toNat_eq
  simp only [fieldX, fieldNN, fieldNNN, BitVec.toNat_append, BitVec.extractLsb'_toNat, Nat.shiftLeft_eq,
    Nat.shiftRight_eq_div_pow]
  rw [Nat.mul_comm, ← Nat.two_pow_add_eq_or_of_lt (by omega)]
  have := op.isLt
  omega

/-- NN is Y followed by N. -/
theorem nn_eq_y_n (op : Word) : fieldNN op = fieldY op ++ fieldN op := by
  apply BitVec.eq_of_toNat_eq
  simp only [fieldY, fieldNN, fieldN, BitVec.toNat_append, BitVec.extractLsb'_toNat, Nat.shiftLeft_eq,
    Nat.shiftRight_eq_div_pow]
  rw [Nat.mul_comm, ← Nat.two_pow_add_eq_or_of_lt (by omega)]
  have := op.isLt
  omega

section Append
variable {c x y n : BitVec 4} {nn : Byte} {nnn : Addr12}

theorem append_toNat {m k : Nat} (a : BitVec m) (b : BitVec k) :
    (a ++ b).toNat = a.toNat * 2 ^ k + b.toNat := by
  rw [BitVec.toNat_append, Nat.shiftLeft_eq, Nat.mul_comm, ← Nat.two_pow_add_eq_or_of_lt b.isLt]

@[simp] theorem fieldClass_FA : fieldClass (c ++ nnn) = c := by
  apply BitVec.eq_of_toNat_eq
  simp only [fieldClass, BitVec.extractLsb'_toNat, append_toNat, Nat.shiftRight_eq_div_pow]
  omega

@[simp] theorem fieldNNN_FA : fieldNNN (c ++ nnn) = nnn := by
  apply BitVec.eq_of_toNat_eq
  simp only [fieldNNN, BitVec.extractLsb'_toNat, append_toNat, Nat.shiftRight_eq_div_pow]
  omega

@[simp] theorem fieldClass_FB : fieldClass (c ++ x ++ nn) = c := by
  apply BitVec.eq_of_toNat_eq
  simp only [fieldClass, BitVec.extractLsb'_toNat, append_toNat, Nat.shiftRight_eq_div_pow]
  omega

@[simp] theorem fieldX_FB : fieldX (c ++ x ++ nn) = x := by
  apply BitVec.eq_of_toNat_eq
  simp only [fieldX, BitVec.extractLsb'_toNat, append_toNat, Nat.shiftRight_eq_div_pow]
  omega

@[simp] theorem fieldNN_FB : fieldNN (c ++ x ++ nn) = nn := by
  apply BitVec.eq_of_toNat_eq
  simp only [fieldNN, BitVec.extractLsb'_toNat, append_toNat, Nat.shiftRight_eq_div_pow]
  omega

@[simp] theorem fieldClass_FR : fieldClass (c ++ x ++ y ++ n) = c := by
  apply BitVec.eq_of_toNat_eq
  simp only [fieldClass, BitVec.extractLsb'_toNat, append_toNat, Nat.shiftRight_eq_div_pow]
  omega

@[simp] theorem fieldX_FR : fieldX (c ++ x ++ y ++ n) = x := by
  apply BitVec.eq_of_toNat_eq
  simp only [fieldX, BitVec.extractLsb'_toNat, append_toNat, Nat.shiftRight_eq_div_pow]
  omega

@[simp] theorem fieldY_FR : fieldY (c ++ x ++ y ++ n) = y := by
  apply BitVec.eq_of_toNat_eq
  simp only [fieldY, BitVec.extractLsb'_toNat, append_toNat, Nat.shiftRight_eq_div_pow]
  omega

@[simp] theorem fieldN_FR : fieldN (c ++ x ++ y ++ n) = n := by
  apply BitVec.eq_of_toNat_eq
  simp only [fieldN, BitVec.extractLsb'_toNat, append_toNat, Nat.shiftRight_eq_div_pow]
  omega

end Append

/-- The bytes of a word combine back to it (R74). -/
@[simp] theorem combine_bytes (op : Word) : combine (highByte op) (lowByte op) = op := by
  apply BitVec.eq_of_toNat_eq
  simp only [combine, highByte, lowByte, append_toNat, BitVec.extractLsb'_toNat, Nat.shiftRight_eq_div_pow]
  have := op.isLt
  omega

end Sys2Proof
end

