-- ==== Sys2Proof/Laws/PerInstr.lean ====
section
/-! SUPPORT. The family TableRow: the word of every instruction lies in its row of spec/opcode_table.json, that is, the
bits under the row's mask are the row's match, and no word the row excludes is its word. -/

namespace Sys2Proof.Laws.TableRow

/-- A row of the table: match, mask and excluded words. -/
structure Row where
  matchBits : Word
  mask : Word
  excludes : List Word

/-- The row of an instruction. -/
def row : Instr → Row
  | .op00E0 => ⟨0x00E0#16, 0xFFFF#16, []⟩
  | .op00EE => ⟨0x00EE#16, 0xFFFF#16, []⟩
  | .op0NNN _ => ⟨0x0000#16, 0xF000#16, [0x00E0#16, 0x00EE#16]⟩
  | .op1NNN _ => ⟨0x1000#16, 0xF000#16, []⟩
  | .op2NNN _ => ⟨0x2000#16, 0xF000#16, []⟩
  | .op3XNN _ _ => ⟨0x3000#16, 0xF000#16, []⟩
  | .op4XNN _ _ => ⟨0x4000#16, 0xF000#16, []⟩
  | .op5XY0 _ _ => ⟨0x5000#16, 0xF00F#16, []⟩
  | .op6XNN _ _ => ⟨0x6000#16, 0xF000#16, []⟩
  | .op7XNN _ _ => ⟨0x7000#16, 0xF000#16, []⟩
  | .op8XY0 _ _ => ⟨0x8000#16, 0xF00F#16, []⟩
  | .op8XY1 _ _ => ⟨0x8001#16, 0xF00F#16, []⟩
  | .op8XY2 _ _ => ⟨0x8002#16, 0xF00F#16, []⟩
  | .op8XY3 _ _ => ⟨0x8003#16, 0xF00F#16, []⟩
  | .op8XY4 _ _ => ⟨0x8004#16, 0xF00F#16, []⟩
  | .op8XY5 _ _ => ⟨0x8005#16, 0xF00F#16, []⟩
  | .op8XY6 _ _ => ⟨0x8006#16, 0xF00F#16, []⟩
  | .op8XY7 _ _ => ⟨0x8007#16, 0xF00F#16, []⟩
  | .op8XYE _ _ => ⟨0x800E#16, 0xF00F#16, []⟩
  | .op9XY0 _ _ => ⟨0x9000#16, 0xF00F#16, []⟩
  | .opANNN _ => ⟨0xA000#16, 0xF000#16, []⟩
  | .opBNNN _ => ⟨0xB000#16, 0xF000#16, []⟩
  | .opCXNN _ _ => ⟨0xC000#16, 0xF000#16, []⟩
  | .opDXYN _ _ _ => ⟨0xD000#16, 0xF000#16, []⟩
  | .opEX9E _ => ⟨0xE09E#16, 0xF0FF#16, []⟩
  | .opEXA1 _ => ⟨0xE0A1#16, 0xF0FF#16, []⟩
  | .opFX07 _ => ⟨0xF007#16, 0xF0FF#16, []⟩
  | .opFX0A _ => ⟨0xF00A#16, 0xF0FF#16, []⟩
  | .opFX15 _ => ⟨0xF015#16, 0xF0FF#16, []⟩
  | .opFX18 _ => ⟨0xF018#16, 0xF0FF#16, []⟩
  | .opFX1E _ => ⟨0xF01E#16, 0xF0FF#16, []⟩
  | .opFX29 _ => ⟨0xF029#16, 0xF0FF#16, []⟩
  | .opFX33 _ => ⟨0xF033#16, 0xF0FF#16, []⟩
  | .opFX55 _ => ⟨0xF055#16, 0xF0FF#16, []⟩
  | .opFX65 _ => ⟨0xF065#16, 0xF0FF#16, []⟩

/-- The word of a well-formed instruction lies in its row. -/
def Statement (i : Instr) : Prop :=
  i.wf = true → encode i &&& (row i).mask = (row i).matchBits ∧ encode i ∉ (row i).excludes

/-- Masking a word, field by field. -/
theorem and_append {m k : Nat} (a c : BitVec m) (b d : BitVec k) :
    (a ++ b) &&& (c ++ d) = (a &&& c) ++ (b &&& d) := by
  ext i hi
  simp only [BitVec.getElem_and, BitVec.getElem_append]
  split <;> rfl

theorem op00E0 : Statement .op00E0 := fun _ => by decide

theorem op00EE : Statement .op00EE := fun _ => by decide

theorem op0NNN (nnn : Addr12) : Statement (.op0NNN nnn) := by
  intro h
  simp only [Instr.wf, Bool.and_eq_true, bne_iff_ne, ne_eq] at h
  refine ⟨?_, ?_⟩
  · show (0x0#4 ++ nnn) &&& (0xF#4 ++ 0x000#12) = 0x0#4 ++ 0x000#12
    rw [and_append]; simp
  · show 0x0#4 ++ nnn ∉ [0x0#4 ++ 0x0E0#12, 0x0#4 ++ 0x0EE#12]
    have inj (w : Addr12) (e : 0x0#4 ++ nnn = 0x0#4 ++ w) : nnn = w := by
      have := congrArg fieldNNN e; simpa using this
    simp only [List.mem_cons, List.not_mem_nil, or_false, not_or]
    exact ⟨fun e => h.1 (inj _ e), fun e => h.2 (inj _ e)⟩

theorem op1NNN (nnn : Addr12) : Statement (.op1NNN nnn) := fun _ => by
  refine ⟨?_, List.not_mem_nil⟩
  show (0x1#4 ++ nnn) &&& (0xF#4 ++ 0x0#12) = 0x1#4 ++ 0x0#12
  simp only [and_append]
  simp

theorem op2NNN (nnn : Addr12) : Statement (.op2NNN nnn) := fun _ => by
  refine ⟨?_, List.not_mem_nil⟩
  show (0x2#4 ++ nnn) &&& (0xF#4 ++ 0x0#12) = 0x2#4 ++ 0x0#12
  simp only [and_append]
  simp

theorem op3XNN (x : Reg) (nn : Byte) : Statement (.op3XNN x nn) := fun _ => by
  refine ⟨?_, List.not_mem_nil⟩
  show (0x3#4 ++ x ++ nn) &&& (0xF#4 ++ 0x0#4 ++ 0x0#8) = 0x3#4 ++ 0x0#4 ++ 0x0#8
  simp only [and_append]
  simp

theorem op4XNN (x : Reg) (nn : Byte) : Statement (.op4XNN x nn) := fun _ => by
  refine ⟨?_, List.not_mem_nil⟩
  show (0x4#4 ++ x ++ nn) &&& (0xF#4 ++ 0x0#4 ++ 0x0#8) = 0x4#4 ++ 0x0#4 ++ 0x0#8
  simp only [and_append]
  simp

theorem op5XY0 (x : Reg) (y : Reg) : Statement (.op5XY0 x y) := fun _ => by
  refine ⟨?_, List.not_mem_nil⟩
  show (0x5#4 ++ x ++ y ++ 0x0#4) &&& (0xF#4 ++ 0x0#4 ++ 0x0#4 ++ 0xF#4) = 0x5#4 ++ 0x0#4 ++ 0x0#4 ++ 0x0#4
  simp only [and_append]
  simp

theorem op6XNN (x : Reg) (nn : Byte) : Statement (.op6XNN x nn) := fun _ => by
  refine ⟨?_, List.not_mem_nil⟩
  show (0x6#4 ++ x ++ nn) &&& (0xF#4 ++ 0x0#4 ++ 0x0#8) = 0x6#4 ++ 0x0#4 ++ 0x0#8
  simp only [and_append]
  simp

theorem op7XNN (x : Reg) (nn : Byte) : Statement (.op7XNN x nn) := fun _ => by
  refine ⟨?_, List.not_mem_nil⟩
  show (0x7#4 ++ x ++ nn) &&& (0xF#4 ++ 0x0#4 ++ 0x0#8) = 0x7#4 ++ 0x0#4 ++ 0x0#8
  simp only [and_append]
  simp

theorem op8XY0 (x : Reg) (y : Reg) : Statement (.op8XY0 x y) := fun _ => by
  refine ⟨?_, List.not_mem_nil⟩
  show (0x8#4 ++ x ++ y ++ 0x0#4) &&& (0xF#4 ++ 0x0#4 ++ 0x0#4 ++ 0xF#4) = 0x8#4 ++ 0x0#4 ++ 0x0#4 ++ 0x0#4
  simp only [and_append]
  simp

theorem op8XY1 (x : Reg) (y : Reg) : Statement (.op8XY1 x y) := fun _ => by
  refine ⟨?_, List.not_mem_nil⟩
  show (0x8#4 ++ x ++ y ++ 0x1#4) &&& (0xF#4 ++ 0x0#4 ++ 0x0#4 ++ 0xF#4) = 0x8#4 ++ 0x0#4 ++ 0x0#4 ++ 0x1#4
  simp only [and_append]
  simp

theorem op8XY2 (x : Reg) (y : Reg) : Statement (.op8XY2 x y) := fun _ => by
  refine ⟨?_, List.not_mem_nil⟩
  show (0x8#4 ++ x ++ y ++ 0x2#4) &&& (0xF#4 ++ 0x0#4 ++ 0x0#4 ++ 0xF#4) = 0x8#4 ++ 0x0#4 ++ 0x0#4 ++ 0x2#4
  simp only [and_append]
  simp

theorem op8XY3 (x : Reg) (y : Reg) : Statement (.op8XY3 x y) := fun _ => by
  refine ⟨?_, List.not_mem_nil⟩
  show (0x8#4 ++ x ++ y ++ 0x3#4) &&& (0xF#4 ++ 0x0#4 ++ 0x0#4 ++ 0xF#4) = 0x8#4 ++ 0x0#4 ++ 0x0#4 ++ 0x3#4
  simp only [and_append]
  simp

theorem op8XY4 (x : Reg) (y : Reg) : Statement (.op8XY4 x y) := fun _ => by
  refine ⟨?_, List.not_mem_nil⟩
  show (0x8#4 ++ x ++ y ++ 0x4#4) &&& (0xF#4 ++ 0x0#4 ++ 0x0#4 ++ 0xF#4) = 0x8#4 ++ 0x0#4 ++ 0x0#4 ++ 0x4#4
  simp only [and_append]
  simp

theorem op8XY5 (x : Reg) (y : Reg) : Statement (.op8XY5 x y) := fun _ => by
  refine ⟨?_, List.not_mem_nil⟩
  show (0x8#4 ++ x ++ y ++ 0x5#4) &&& (0xF#4 ++ 0x0#4 ++ 0x0#4 ++ 0xF#4) = 0x8#4 ++ 0x0#4 ++ 0x0#4 ++ 0x5#4
  simp only [and_append]
  simp

theorem op8XY6 (x : Reg) (y : Reg) : Statement (.op8XY6 x y) := fun _ => by
  refine ⟨?_, List.not_mem_nil⟩
  show (0x8#4 ++ x ++ y ++ 0x6#4) &&& (0xF#4 ++ 0x0#4 ++ 0x0#4 ++ 0xF#4) = 0x8#4 ++ 0x0#4 ++ 0x0#4 ++ 0x6#4
  simp only [and_append]
  simp

theorem op8XY7 (x : Reg) (y : Reg) : Statement (.op8XY7 x y) := fun _ => by
  refine ⟨?_, List.not_mem_nil⟩
  show (0x8#4 ++ x ++ y ++ 0x7#4) &&& (0xF#4 ++ 0x0#4 ++ 0x0#4 ++ 0xF#4) = 0x8#4 ++ 0x0#4 ++ 0x0#4 ++ 0x7#4
  simp only [and_append]
  simp

theorem op8XYE (x : Reg) (y : Reg) : Statement (.op8XYE x y) := fun _ => by
  refine ⟨?_, List.not_mem_nil⟩
  show (0x8#4 ++ x ++ y ++ 0xE#4) &&& (0xF#4 ++ 0x0#4 ++ 0x0#4 ++ 0xF#4) = 0x8#4 ++ 0x0#4 ++ 0x0#4 ++ 0xE#4
  simp only [and_append]
  simp

theorem op9XY0 (x : Reg) (y : Reg) : Statement (.op9XY0 x y) := fun _ => by
  refine ⟨?_, List.not_mem_nil⟩
  show (0x9#4 ++ x ++ y ++ 0x0#4) &&& (0xF#4 ++ 0x0#4 ++ 0x0#4 ++ 0xF#4) = 0x9#4 ++ 0x0#4 ++ 0x0#4 ++ 0x0#4
  simp only [and_append]
  simp

theorem opANNN (nnn : Addr12) : Statement (.opANNN nnn) := fun _ => by
  refine ⟨?_, List.not_mem_nil⟩
  show (0xA#4 ++ nnn) &&& (0xF#4 ++ 0x0#12) = 0xA#4 ++ 0x0#12
  simp only [and_append]
  simp

theorem opBNNN (nnn : Addr12) : Statement (.opBNNN nnn) := fun _ => by
  refine ⟨?_, List.not_mem_nil⟩
  show (0xB#4 ++ nnn) &&& (0xF#4 ++ 0x0#12) = 0xB#4 ++ 0x0#12
  simp only [and_append]
  simp

theorem opCXNN (x : Reg) (nn : Byte) : Statement (.opCXNN x nn) := fun _ => by
  refine ⟨?_, List.not_mem_nil⟩
  show (0xC#4 ++ x ++ nn) &&& (0xF#4 ++ 0x0#4 ++ 0x0#8) = 0xC#4 ++ 0x0#4 ++ 0x0#8
  simp only [and_append]
  simp

theorem opDXYN (x : Reg) (y : Reg) (n : Nibble) : Statement (.opDXYN x y n) := fun _ => by
  refine ⟨?_, List.not_mem_nil⟩
  show (0xD#4 ++ x ++ y ++ n) &&& (0xF#4 ++ 0x0#4 ++ 0x0#4 ++ 0x0#4) = 0xD#4 ++ 0x0#4 ++ 0x0#4 ++ 0x0#4
  simp only [and_append]
  simp

theorem opEX9E (x : Reg) : Statement (.opEX9E x) := fun _ => by
  refine ⟨?_, List.not_mem_nil⟩
  show (0xE#4 ++ x ++ 0x9E#8) &&& (0xF#4 ++ 0x0#4 ++ 0xFF#8) = 0xE#4 ++ 0x0#4 ++ 0x9E#8
  simp only [and_append]
  simp

theorem opEXA1 (x : Reg) : Statement (.opEXA1 x) := fun _ => by
  refine ⟨?_, List.not_mem_nil⟩
  show (0xE#4 ++ x ++ 0xA1#8) &&& (0xF#4 ++ 0x0#4 ++ 0xFF#8) = 0xE#4 ++ 0x0#4 ++ 0xA1#8
  simp only [and_append]
  simp

theorem opFX07 (x : Reg) : Statement (.opFX07 x) := fun _ => by
  refine ⟨?_, List.not_mem_nil⟩
  show (0xF#4 ++ x ++ 0x7#8) &&& (0xF#4 ++ 0x0#4 ++ 0xFF#8) = 0xF#4 ++ 0x0#4 ++ 0x7#8
  simp only [and_append]
  simp

theorem opFX0A (x : Reg) : Statement (.opFX0A x) := fun _ => by
  refine ⟨?_, List.not_mem_nil⟩
  show (0xF#4 ++ x ++ 0xA#8) &&& (0xF#4 ++ 0x0#4 ++ 0xFF#8) = 0xF#4 ++ 0x0#4 ++ 0xA#8
  simp only [and_append]
  simp

theorem opFX15 (x : Reg) : Statement (.opFX15 x) := fun _ => by
  refine ⟨?_, List.not_mem_nil⟩
  show (0xF#4 ++ x ++ 0x15#8) &&& (0xF#4 ++ 0x0#4 ++ 0xFF#8) = 0xF#4 ++ 0x0#4 ++ 0x15#8
  simp only [and_append]
  simp

theorem opFX18 (x : Reg) : Statement (.opFX18 x) := fun _ => by
  refine ⟨?_, List.not_mem_nil⟩
  show (0xF#4 ++ x ++ 0x18#8) &&& (0xF#4 ++ 0x0#4 ++ 0xFF#8) = 0xF#4 ++ 0x0#4 ++ 0x18#8
  simp only [and_append]
  simp

theorem opFX1E (x : Reg) : Statement (.opFX1E x) := fun _ => by
  refine ⟨?_, List.not_mem_nil⟩
  show (0xF#4 ++ x ++ 0x1E#8) &&& (0xF#4 ++ 0x0#4 ++ 0xFF#8) = 0xF#4 ++ 0x0#4 ++ 0x1E#8
  simp only [and_append]
  simp

theorem opFX29 (x : Reg) : Statement (.opFX29 x) := fun _ => by
  refine ⟨?_, List.not_mem_nil⟩
  show (0xF#4 ++ x ++ 0x29#8) &&& (0xF#4 ++ 0x0#4 ++ 0xFF#8) = 0xF#4 ++ 0x0#4 ++ 0x29#8
  simp only [and_append]
  simp

theorem opFX33 (x : Reg) : Statement (.opFX33 x) := fun _ => by
  refine ⟨?_, List.not_mem_nil⟩
  show (0xF#4 ++ x ++ 0x33#8) &&& (0xF#4 ++ 0x0#4 ++ 0xFF#8) = 0xF#4 ++ 0x0#4 ++ 0x33#8
  simp only [and_append]
  simp

theorem opFX55 (x : Reg) : Statement (.opFX55 x) := fun _ => by
  refine ⟨?_, List.not_mem_nil⟩
  show (0xF#4 ++ x ++ 0x55#8) &&& (0xF#4 ++ 0x0#4 ++ 0xFF#8) = 0xF#4 ++ 0x0#4 ++ 0x55#8
  simp only [and_append]
  simp

theorem opFX65 (x : Reg) : Statement (.opFX65 x) := fun _ => by
  refine ⟨?_, List.not_mem_nil⟩
  show (0xF#4 ++ x ++ 0x65#8) &&& (0xF#4 ++ 0x0#4 ++ 0xFF#8) = 0xF#4 ++ 0x0#4 ++ 0x65#8
  simp only [and_append]
  simp

end Sys2Proof.Laws.TableRow
end

