-- ==== Sys2Proof/Tests/Slice0.lean ====
section
/-! SUPPORT. The model's own tests: the well-formedness check, every constructor's word written from the spec's
encodings, single steps from 95_test_vectors.md, and for every obligation with hypotheses a witness that meets them. -/

namespace Sys2Proof.Tests

open Sys2Proof Sys2Proof.Machine

/-- The next state, where there is one. -/
def got : Answer → Option State
  | .next s => some s
  | .fault _ => none
  | .refused _ => none

/-- A state with one word at PC = 0x200. -/
def at200 (op : Word) : State := placeWord State.reset op

/-- A state with one word at a given PC. -/
def atPc (pc op : Word) : State := placeWord { State.reset with pc := pc } op

/-- Registers set one after the other. -/
def regs (rs : List (Reg × Byte)) (s : State) : State := rs.foldl (fun t p => t.setV p.1 p.2) s

/-- A byte put into memory. -/
def poke (a : Nat) (b : Byte) (s : State) : State := { s with mem := Memory.write s.cfg s.mem a b }

/-- I set. -/
def withI (i : Word) (s : State) : State := { s with i := i }

/-- A key pressed. -/
def press (k : Nat) (s : State) : State := { s with key := s.key.setIfInBounds k true }

/-- Cells set. -/
def cells (js : List Nat) (s : State) : State := { s with fb := js.foldl (fun f j => f ||| BitVec.twoPow 2048 j) s.fb }

/-- The parameters with ticks by the host. -/
def external : Config := { defaultConfig with timerMode := .externalTick }

/-- What a test reads of one step. -/
def after {α : Type} (s : State) (f : State → α) : Option α := (got (step s)).map f

/-! ### Well-formedness -/

/-- R106: 0x00E0 is 00E0, never 0NNN. -/
theorem test_illformed_0NNN_0E0 : Instr.wf (.op0NNN 0x0E0) = false := by decide

/-- R106: 0x00EE is 00EE, never 0NNN. -/
theorem test_illformed_0NNN_0EE : Instr.wf (.op0NNN 0x0EE) = false := by decide

/-- R106: the words beside them are 0NNN. -/
theorem test_wellformed_0NNN : Instr.wf (.op0NNN 0x0E1) = true ∧ Instr.wf (.op0NNN 0x0ED) = true := by decide

/-! ### Decoding: a word of every constructor, in binary from the formats of R102 and the codes of R106 to R111 -/

/-- Control flow: formats F0, FA, FB, FR. -/
theorem test_decode_control :
    decodeWord 0b0000_0000_1110_1110#16 = some .op00EE ∧
    decodeWord 0b0000_0001_0010_0011#16 = some (.op0NNN 0x123) ∧
    decodeWord 0b0001_0010_0011_0100#16 = some (.op1NNN 0x234) ∧
    decodeWord 0b0010_0010_0001_0000#16 = some (.op2NNN 0x210) ∧
    decodeWord 0b0011_0001_0100_0010#16 = some (.op3XNN 1 0x42) ∧
    decodeWord 0b0100_0001_0100_0010#16 = some (.op4XNN 1 0x42) ∧
    decodeWord 0b0101_0001_0010_0000#16 = some (.op5XY0 1 2) ∧
    decodeWord 0b1001_0001_0010_0000#16 = some (.op9XY0 1 2) ∧
    decodeWord 0b1011_1111_1110_1101#16 = some (.opBNNN 0xFED) := by decide

/-- Loads, arithmetic, logic, shifts, random: formats FB and FR. -/
theorem test_decode_alu :
    decodeWord 0b0110_1010_0010_1111#16 = some (.op6XNN 0xA 0x2F) ∧
    decodeWord 0b0111_0011_1111_1110#16 = some (.op7XNN 3 0xFE) ∧
    decodeWord 0b1000_0001_0010_0000#16 = some (.op8XY0 1 2) ∧
    decodeWord 0b1000_0001_0010_0001#16 = some (.op8XY1 1 2) ∧
    decodeWord 0b1000_0001_0010_0010#16 = some (.op8XY2 1 2) ∧
    decodeWord 0b1000_0001_0010_0011#16 = some (.op8XY3 1 2) ∧
    decodeWord 0b1000_0001_0010_0100#16 = some (.op8XY4 1 2) ∧
    decodeWord 0b1000_0001_0010_0101#16 = some (.op8XY5 1 2) ∧
    decodeWord 0b1000_0001_0010_0110#16 = some (.op8XY6 1 2) ∧
    decodeWord 0b1000_0001_0010_0111#16 = some (.op8XY7 1 2) ∧
    decodeWord 0b1000_0001_0010_1110#16 = some (.op8XYE 1 2) ∧
    decodeWord 0b1100_0011_0000_1111#16 = some (.opCXNN 3 0x0F) := by decide

/-- Index and memory: formats FA and FX. -/
theorem test_decode_index :
    decodeWord 0b1010_0011_0000_0001#16 = some (.opANNN 0x301) ∧
    decodeWord 0b1111_0010_0001_1110#16 = some (.opFX1E 2) ∧
    decodeWord 0b1111_1010_0010_1001#16 = some (.opFX29 0xA) ∧
    decodeWord 0b1111_0101_0011_0011#16 = some (.opFX33 5) ∧
    decodeWord 0b1111_0011_0101_0101#16 = some (.opFX55 3) ∧
    decodeWord 0b1111_0011_0110_0101#16 = some (.opFX65 3) := by decide

/-- Display: formats F0 and FD. -/
theorem test_decode_display :
    decodeWord 0b0000_0000_1110_0000#16 = some .op00E0 ∧
    decodeWord 0b1101_0001_0010_0011#16 = some (.opDXYN 1 2 3) := by decide

/-- Keypad and timers: format FX. -/
theorem test_decode_keys :
    decodeWord 0b1110_0001_1001_1110#16 = some (.opEX9E 1) ∧
    decodeWord 0b1110_0001_1010_0001#16 = some (.opEXA1 1) ∧
    decodeWord 0b1111_0100_0000_0111#16 = some (.opFX07 4) ∧
    decodeWord 0b1111_0011_0000_1010#16 = some (.opFX0A 3) ∧
    decodeWord 0b1111_0000_0001_0101#16 = some (.opFX15 0) ∧
    decodeWord 0b1111_0010_0001_1000#16 = some (.opFX18 2) := by decide

/-- Vectors A4 to A8: words that match no instruction. -/
theorem test_decode_unknown :
    decodeWord 0x5121 = none ∧ decodeWord 0x8128 = none ∧ decodeWord 0x812F = none ∧
    decodeWord 0xE19F = none ∧ decodeWord 0xF100 = none ∧ decodeWord 0x9121 = none := by decide

/-- R74, R100: the first byte is the high one, and one byte is no instruction. -/
theorem test_decode_bytes :
    decode [0x12, 0x34, 0x56] = .instr (.op1NNN 0x234) [0x56] ∧ decode [0x12] = .truncated ∧
    decode [] = .truncated := by decide

/-- The opcode table numbers the bits of its one word as R100 does. -/
theorem test_decode_table_word :
    decodeTableWord 16 0x8124 = some (.op8XY4 1 2) ∧ decodeTableWord 16 0x5121 = none := by decide

/-- A placed word is the first instruction after reset (R295). -/
theorem test_place_table_word :
    after (State.reset.withFetchWord 16 0x1234) (fun t => (t.pc, t.result)) = some (0x234, some .ok) := by decide

/-! ### The step: vectors A1 to A10 -/

/-- Vector A1: the last word of memory. -/
theorem test_step_last_word :
    after (atPc 0xFFE 0x6001) (fun t => (t.getV 0, t.pc)) = some (0x01, 0x1000) := by decide

/-- Vectors A2 and A3: no fetch at 0xFFF or above. -/
theorem test_step_fetch_fault :
    after (atPc 0xFFF 0x6001) (fun t => (t.pc, t.result)) =
      some (0xFFF, some (.fault (.outOfBoundsAccess .fetch 0x1000) 0xFFF none)) ∧
    after (atPc 0x1000 0x6001) (fun t => (t.pc, t.result)) =
      some (0x1000, some (.fault (.outOfBoundsAccess .fetch 0x1000) 0x1000 none)) := by decide

/-- Vector A4: an Unknown word. -/
theorem test_step_unknown :
    after (at200 0x5121) (fun t => (t.pc, t.result, t.faultMark)) =
      some (0x202, some (.cond .unknownOpcode 0x200 0x5121), false) := by decide

/-- Vector A10: the tick of a step whose fetch faults stands. -/
theorem test_step_fault_ticks :
    after { atPc 0xFFF 0x6001 with dt := 3 } (fun t => (t.dt, t.pc)) = some (2, 0xFFF) := by decide

/-- Vector P5: reset memory holds 0x0000, which is 0NNN. -/
theorem test_step_from_reset :
    after State.reset (fun t => (t.pc, t.result)) =
      some (0x202, some (.cond .unimplemented 0x200 0x0000)) := by decide

/-! ### Control flow: vectors B1 to B13 -/

/-- Vector B1. -/
theorem test_00EE_pops :
    after { atPc 0x214 0x00EE with stack := [0x206] } (fun t => (t.pc, t.stack)) = some (0x206, []) := by decide

/-- Vector B2. -/
theorem test_00EE_underflow :
    after (at200 0x00EE) (fun t => (t.pc, t.result, t.faultMark)) =
      some (0x202, some (.fault .stackUnderflow 0x200 (some 0x00EE)), true) := by decide

/-- The example of R151. -/
theorem test_0NNN_reports :
    after (at200 0x0123) (fun t => (t.pc, t.result)) =
      some (0x202, some (.cond .unimplemented 0x200 0x0123)) := by decide

/-- Vector B13: a jump to itself at an odd address. -/
theorem test_1NNN_odd : after (atPc 0x201 0x1201) (fun t => (t.pc, t.result)) = some (0x201, some .ok) := by decide

/-- Vector B3. -/
theorem test_2NNN_pushes :
    after (atPc 0x204 0x2210) (fun t => (t.pc, t.stack)) = some (0x210, [0x206]) := by decide

/-- Vector B4. -/
theorem test_2NNN_overflow :
    after { at200 0x2300 with stack := List.replicate 16 0x202 } (fun t => (t.pc, t.stack.length, t.result)) =
      some (0x202, 16, some (.fault .stackOverflow 0x200 (some 0x2300))) := by decide

/-- Vectors B7 and B8. -/
theorem test_3XNN_skips :
    after (regs [(1, 0x42)] (at200 0x3142)) State.pc = some 0x204 ∧
    after (regs [(1, 0x41)] (at200 0x3142)) State.pc = some 0x202 := by decide

/-- Vector B9 and the example of R156. -/
theorem test_4XNN_skips :
    after (regs [(1, 0x41)] (at200 0x4142)) State.pc = some 0x204 ∧
    after (regs [(1, 0x42)] (at200 0x4142)) State.pc = some 0x202 := by decide

/-- Vectors B10 and B12. -/
theorem test_5XY0_skips :
    after (regs [(1, 7), (2, 7)] (at200 0x5120)) State.pc = some 0x204 ∧
    after (at200 0x5110) State.pc = some 0x204 := by decide

/-- Vector B11 and the example of R158. -/
theorem test_9XY0_skips :
    after (regs [(1, 7), (2, 7)] (at200 0x9120)) State.pc = some 0x202 ∧
    after (regs [(1, 7), (2, 8)] (at200 0x9120)) State.pc = some 0x204 := by decide

/-- Vector B6: the largest target. -/
theorem test_BNNN_top : after (regs [(0, 0xFF)] (at200 0xBFFF)) State.pc = some 0x10FE := by decide

/-! ### Arithmetic: vectors L1-1 to L1-3 and C1 to C28 -/

/-- Vector C1. -/
theorem test_6XNN_loads : after (at200 0x6A2F) (·.getV 0xA) = some 0x2F := by decide

/-- The example of R171: the sum wraps and VF stays. -/
theorem test_7XNN_wraps :
    after (regs [(3, 0xF0), (0xF, 0xAA)] (at200 0x7320)) (fun t => (t.getV 3, t.getV 0xF)) = some (0x10, 0xAA) := by decide

/-- Vectors C3 and C17. -/
theorem test_8XY0_copies :
    after (regs [(2, 0x99)] (at200 0x8120)) (·.getV 1) = some 0x99 ∧
    after (regs [(1, 0x33), (0xF, 1)] (at200 0x8F10)) (·.getV 0xF) = some 0x33 := by decide

/-- Vector C4. -/
theorem test_8XY1_or :
    after (regs [(1, 0x0C), (2, 0x03), (0xF, 1)] (at200 0x8121)) (fun t => (t.getV 1, t.getV 0xF)) =
      some (0x0F, 0) := by decide

/-- Vector C18: with X = F the flag write is last. -/
theorem test_8XY1_into_VF : after (regs [(1, 0x30), (0xF, 0x0F)] (at200 0x8F11)) (·.getV 0xF) = some 0 := by decide

/-- Vector C5. -/
theorem test_8XY2_and :
    after (regs [(1, 0x0C), (2, 0x06), (0xF, 1)] (at200 0x8122)) (fun t => (t.getV 1, t.getV 0xF)) =
      some (0x04, 0) := by decide

/-- The example of R175. -/
theorem test_8XY3_xor :
    after (regs [(1, 0x0C), (2, 0x06), (0xF, 1)] (at200 0x8123)) (fun t => (t.getV 1, t.getV 0xF)) =
      some (0x0A, 0) := by decide

/-- Vector L1-2. -/
theorem test_8XY4_carry :
    after (regs [(1, 0xFF), (2, 0x01)] (at200 0x8124)) (fun t => (t.getV 1, t.getV 0xF)) = some (0x00, 1) ∧
    after (regs [(1, 0x01), (2, 0x01)] (at200 0x8124)) (fun t => (t.getV 1, t.getV 0xF)) = some (0x02, 0) := by decide

/-- Vectors C19 and C20: VF as an operand. -/
theorem test_8XY4_VF :
    after (regs [(1, 0x01), (0xF, 0xFF)] (at200 0x8F14)) (·.getV 0xF) = some 0x00 ∧
    after (regs [(1, 0xFF), (0xF, 0x01)] (at200 0x81F4)) (fun t => (t.getV 1, t.getV 0xF)) = some (0x00, 1) := by decide

/-- Vectors L1-3 and C8. -/
theorem test_8XY5_borrow :
    after (regs [(1, 0x05), (2, 0x0A)] (at200 0x8125)) (fun t => (t.getV 1, t.getV 0xF)) = some (0xFB, 0) ∧
    after (regs [(1, 0x07), (2, 0x07)] (at200 0x8125)) (fun t => (t.getV 1, t.getV 0xF)) = some (0x00, 1) := by decide

/-- Vectors C21 and C22: VF as an operand. -/
theorem test_8XY5_VF :
    after (regs [(1, 0x03), (0xF, 0x01)] (at200 0x8F15)) (·.getV 0xF) = some 0xFE ∧
    after (regs [(1, 0x05), (0xF, 0x07)] (at200 0x81F5)) (fun t => (t.getV 1, t.getV 0xF)) = some (0xFE, 0) := by decide

/-- Vector C9: Y is not read. -/
theorem test_8XY6_shifts :
    after (regs [(1, 0x05), (0, 0xFF)] (at200 0x8106)) (fun t => (t.getV 1, t.getV 0xF, t.getV 0)) =
      some (0x02, 1, 0xFF) := by decide

/-- Vector C23. -/
theorem test_8XY6_VF : after (regs [(0xF, 0x03)] (at200 0x8F06)) (·.getV 0xF) = some 0x01 := by decide

/-- Vectors C11 and C12. -/
theorem test_8XY7_borrow :
    after (regs [(1, 0x0A), (2, 0x05)] (at200 0x8127)) (fun t => (t.getV 1, t.getV 0xF)) = some (0xFB, 0) ∧
    after (regs [(1, 0x05), (2, 0x0A)] (at200 0x8127)) (fun t => (t.getV 1, t.getV 0xF)) = some (0x05, 1) := by decide

/-- Vectors C24 and C25: VF as an operand. -/
theorem test_8XY7_VF :
    after (regs [(1, 0x05), (0xF, 0x01)] (at200 0x8F17)) (·.getV 0xF) = some 0x04 ∧
    after (regs [(1, 0x05), (0xF, 0x03)] (at200 0x81F7)) (fun t => (t.getV 1, t.getV 0xF)) = some (0xFE, 0) := by decide

/-- Vectors C13 and C26. -/
theorem test_8XYE_shifts :
    after (regs [(1, 0x81)] (at200 0x810E)) (fun t => (t.getV 1, t.getV 0xF)) = some (0x02, 1) ∧
    after (regs [(0xF, 0x81)] (at200 0x8F0E)) (·.getV 0xF) = some 0x02 := by decide

/-- Vector C16: whatever the draw, the mask 0 gives 0. -/
theorem test_CXNN_mask_zero : (got (exec (.opCXNN 3 0) State.reset)).map (·.getV 3) = some 0 :=
  congrArg some (show Config.rand 0 &&& 0 = 0 from BitVec.and_zero)

/-! ### Index and memory: vectors D1 to D15 -/

/-- Vector D1. -/
theorem test_ANNN_loads : after (at200 0xA300) State.i = some 0x300 := by decide

/-- Vectors D2 and D4: I passes 0xFFF, and the old VF is the addend. -/
theorem test_FX1E_range :
    after (withI 0xFFF (regs [(0, 1)] (at200 0xF01E))) (fun t => (t.i, t.getV 0xF)) = some (0x1000, 1) ∧
    after (withI 0xFF0 (regs [(0xF, 0x20)] (at200 0xFF1E))) (fun t => (t.i, t.getV 0xF)) = some (0x1010, 1) := by decide

/-- Vector D3. -/
theorem test_FX1E_in_range :
    after (withI 0x300 (regs [(2, 0x10), (0xF, 7)] (at200 0xF21E))) (fun t => (t.i, t.getV 0xF)) = some (0x310, 0) := by
  decide

/-- Vectors D5 and D6. -/
theorem test_FX29_address :
    after (regs [(0xA, 0x0A)] (at200 0xFA29)) State.i = some 0x082 ∧
    after (regs [(0, 0xFF)] (at200 0xF029)) State.i = some 0x54B := by decide

/-- Vector D7. -/
theorem test_FX33_digits :
    after (withI 0x300 (regs [(0, 0xFE)] (at200 0xF033)))
      (fun t => (t.byteAt 0x300, t.byteAt 0x301, t.byteAt 0x302, t.i)) = some (2, 5, 4, 0x300) := by decide

/-- Vectors D8 and D9: the last place, and one above it. -/
theorem test_FX33_edge :
    after (withI 0xFFD (regs [(5, 7)] (at200 0xF533))) (fun t => (t.byteAt 0xFFF, t.result)) = some (7, some .ok) ∧
    after (withI 0xFFE (regs [(0, 1)] (at200 0xF033))) (fun t => (t.mem == (at200 0xF033).mem, t.pc, t.result)) =
      some (true, 0x202, some (.fault (.outOfBoundsAccess .memory 0x1000) 0x200 (some 0xF033))) := by decide

/-- Vector D11. -/
theorem test_FX55_top :
    after (withI 0xFFC (regs [(0, 9), (1, 8), (2, 7), (3, 6)] (at200 0xF355)))
      (fun t => (t.byteAt 0xFFC, t.byteAt 0xFFF, t.i)) = some (9, 6, 0x1000) := by decide

/-- Vector D12: nothing is written. -/
theorem test_FX55_fault :
    after (withI 0xFFD (regs [(0, 9)] (at200 0xF355))) (fun t => (t.byteAt 0xFFD, t.i, t.result)) =
      some (0, 0xFFD, some (.fault (.outOfBoundsAccess .memory 0x1000) 0x200 (some 0xF355))) := by decide

/-- Vector D13. -/
theorem test_FX65_loads :
    after (withI 0x300 (poke 0x300 1 (poke 0x303 4 (regs [(4, 9)] (at200 0xF365)))))
      (fun t => (t.getV 0, t.getV 1, t.getV 3, t.getV 4, t.i)) = some (1, 0, 4, 9, 0x304) := by decide

/-- Vector D15. -/
theorem test_FX65_fault :
    after (withI 0x1000 (regs [(0, 9)] (at200 0xF065))) (fun t => (t.getV 0, t.i, t.result)) =
      some (9, 0x1000, some (.fault (.outOfBoundsAccess .memory 0x1000) 0x200 (some 0xF065))) := by decide

/-! ### Display: vectors E1 to E8 -/

/-- Vector E1. -/
theorem test_00E0_clears :
    after (cells [5, 100] (at200 0x00E0)) (fun t => (t.fb, t.redraw)) = some (0, true) := by decide +kernel

/-- Vectors E3 and E4: a row runs on into the next, and a collision. -/
theorem test_DXYN_draws :
    after (withI 0x300 (poke 0x300 0xF0 (regs [(0, 62)] (at200 0xD011)))) (fun t => (t.fb, t.getV 0xF)) =
      some ((cells [62, 63, 64, 65] State.reset).fb, 0) ∧
    after (cells [66] (withI 0x300 (poke 0x300 0x80 (regs [(0, 2), (1, 1)] (at200 0xD011)))))
      (fun t => (t.fb, t.getV 0xF, t.redraw)) = some (0, 1, true) := by decide +kernel

/-- Vectors E7 and E8: VF as the coordinate, and coordinates beyond the display. -/
theorem test_DXYN_coordinates :
    after (cells [3] (withI 0x300 (poke 0x300 0x80 (regs [(0xF, 3)] (at200 0xDF01))))) (fun t => (t.fb, t.getV 0xF)) =
      some (0, 1) ∧
    after (withI 0x300 (poke 0x300 0x80 (regs [(0, 200), (1, 40)] (at200 0xD011)))) State.fb =
      some (cells [712] State.reset).fb := by decide +kernel

/-! ### Keypad and timers: vectors F1 to F13 -/

/-- Vectors F1 and F4. -/
theorem test_EX9E_key :
    after (press 5 (regs [(1, 5)] (at200 0xE19E))) State.pc = some 0x204 ∧
    after (regs [(1, 0x10)] (at200 0xE19E)) (fun t => (t.pc, t.result)) =
      some (0x202, some (.fault (.outOfBoundsAccess .keypad 0x10) 0x200 (some 0xE19E))) := by decide

/-- Vector F3 and the fault of R242. -/
theorem test_EXA1_key :
    after (regs [(1, 5)] (at200 0xE1A1)) State.pc = some 0x204 ∧
    after (regs [(1, 0x10)] (at200 0xE1A1)) (fun t => (t.pc, t.faultMark)) = some (0x202, true) := by decide

/-- Vectors F7 and F8. -/
theorem test_FX07_modes :
    after { at200 0xF407 with dt := 3 } (fun t => (t.dt, t.getV 4)) = some (2, 2) ∧
    after { at200 0xF407 with dt := 3, cfg := external } (fun t => (t.dt, t.getV 4)) = some (3, 3) := by decide

/-- Vector F5. -/
theorem test_FX0A_waits :
    after (atPc 0x210 0xF30A) (fun t => (t.pc, t.wait, t.result)) = some (0x210, .waiting, some .ok) := by decide

/-- Vector F6: the lowest key. -/
theorem test_FX0A_takes :
    after (press 9 (press 4 (atPc 0x210 0xF30A))) (fun t => (t.getV 3, t.pc, t.wait)) =
      some (4, 0x212, .notWaiting) := by decide

/-- Vector F10. -/
theorem test_FX15_sets : after { regs [(0, 5)] (at200 0xF015) with dt := 9 } State.dt = some 5 := by decide

/-- Vector F11. -/
theorem test_FX18_sets :
    after { regs [(2, 0x3C)] (at200 0xF218) with dt := 2, st := 1 } (fun t => (t.st, t.dt)) = some (0x3C, 1) := by decide

/-- Vector F13, and the tick port of `per_step` mode. -/
theorem test_tick_port :
    (got (portTick { State.reset with cfg := external, st := 2 })).map (fun t => (t.dt, t.st)) = some (0, 1) ∧
    (got (portTick State.reset)).isNone = true := by decide

/-- Vector H1: the glyph table after construction. -/
theorem test_reset_glyphs :
    Memory.readBytes State.reset.cfg State.reset.mem 0x04F 6 = [0, 0xF0, 0x90, 0x90, 0x90, 0xF0] := by decide

/-! ### Witnesses: for every obligation with hypotheses, a state and operands that meet them, at the edges of each
clause -/

/-- DecodeOfEncode: well-formed instructions at the edge of the check, and EncodeOfDecode: words that decode. -/
theorem test_witness_encoding :
    Instr.wf (.op0NNN 0x0DF) = true ∧ Instr.wf (.op0NNN 0x0EF) = true ∧ Instr.wf (.op8XY6 0xF 0xF) = true ∧
    decodeWord 0x0000 = some (.op0NNN 0) ∧ decodeWord 0xFF65 = some (.opFX65 0xF) := by decide

/-- StepRunsTheDecodedInstruction: the first address after reset and the last one of memory. -/
theorem test_witness_step_runs :
    ((at200 0x1234).pc.toNat + 1 ≤ 0xFFF ∧
      decode [(at200 0x1234).byteAt 0x200, (at200 0x1234).byteAt 0x201] = .instr (.op1NNN 0x234) []) ∧
    ((atPc 0xFFE 0x6001).pc.toNat + 1 ≤ 0xFFF ∧
      decode [(atPc 0xFFE 0x6001).byteAt 0xFFE, (atPc 0xFFE 0x6001).byteAt 0xFFF] = .instr (.op6XNN 0 1) []) := by
  decide

/-- UnknownWordReportsAndAdvances. -/
theorem test_witness_unknown_word :
    fetchWord (at200 0x5121) = .ok 0x5121 ∧ decodeWord 0x5121 = none := ⟨rfl, by decide⟩

/-- FetchFaultRepeats: the lowest and the highest PC that cannot be fetched, in both timer modes. -/
theorem test_witness_fetch_fault :
    ({ State.reset with pc := 0xFFF } : State).pc.toNat + 1 > 0xFFF ∧
    ({ State.reset with pc := 0xFFFF, cfg := external } : State).pc.toNat + 1 > 0xFFF := by decide

/-- FaultingStepWritesNothing. -/
theorem test_witness_faulting_step :
    ∃ t, step (at200 0x00EE) = .next t ∧ t.result = some (.fault .stackUnderflow 0x200 (some 0x00EE)) :=
  ⟨_, rfl, by decide⟩

/-- FaultMarkIsKept: a step that sets the mark, one that does not, and a state that has it. -/
theorem test_witness_fault_mark :
    (∃ t, step (at200 0x00EE) = .next t ∧ t.faultMark = true) ∧
    (∃ t, step (at200 0x6001) = .next t ∧ t.faultMark = false) ∧
    ({ State.reset with faultMark := true } : State).faultMark = true :=
  ⟨⟨_, rfl, by decide⟩, ⟨_, rfl, by decide⟩, by decide⟩

/-- FaultsOnlyWhereListed: a fault of each of its clauses. -/
theorem test_witness_faults :
    (got (exec (.op2NNN 0) { State.reset with stack := List.replicate 16 0 })).map State.result =
      some (some (.fault .stackOverflow 0x1FE (some 0x2000))) ∧
    (got (exec .op00EE State.reset)).map State.result =
      some (some (.fault .stackUnderflow 0x1FE (some 0x00EE))) ∧
    (got (exec (.opDXYN 0 1 1) (withI 0x1000 State.reset))).map State.result =
      some (some (.fault (.outOfBoundsAccess .memory 0x1000) 0x1FE (some 0xD011))) ∧
    (got (exec (.opFX33 0) (withI 0xFFE State.reset))).map State.result =
      some (some (.fault (.outOfBoundsAccess .memory 0x1000) 0x1FE (some 0xF033))) ∧
    (got (exec (.opFX55 0xF) (withI 0xFF1 State.reset))).map State.result =
      some (some (.fault (.outOfBoundsAccess .memory 0x1000) 0x1FE (some 0xFF55))) ∧
    (got (exec (.opFX65 0) (withI 0xFFFF State.reset))).map State.result =
      some (some (.fault (.outOfBoundsAccess .memory 0xFFFF) 0x1FE (some 0xF065))) ∧
    (got (exec (.opEX9E 1) (regs [(1, 0x10)] State.reset))).map State.result =
      some (some (.fault (.outOfBoundsAccess .keypad 0x10) 0x1FE (some 0xE19E))) := by decide

/-- ReturnPopsOrUnderflows: one entry and none. -/
theorem test_witness_return :
    ({ State.reset with stack := [0x206] } : State).stack = 0x206 :: [] ∧ State.reset.stack = [] := by decide

/-- JumpLoadsPc and TimersReachZero: a jump to itself, in `per_step` mode, and a state in `external_tick` mode. -/
theorem test_witness_at_end :
    (at200 0x1200).AtEnd ∧ (at200 0x1200).cfg.timerMode = .perStep ∧
    ({ State.reset with cfg := external } : State).cfg.timerMode = .externalTick :=
  ⟨⟨0x200, rfl, by decide⟩, by decide, by decide⟩

/-- CallPushesOrOverflows: 15 entries and 16. -/
theorem test_witness_call :
    ({ State.reset with stack := List.replicate 15 0x202 } : State).stack.length < 16 ∧
    ({ State.reset with stack := List.replicate 16 0x202 } : State).stack.length = 16 := by decide

/-- CallThenReturnComesBack: vector L1-5, and a target whose return is the last word of memory. -/
theorem test_witness_call_return :
    (fetchWord (poke 0x211 0xEE (atPc 0x204 0x2210)) = .ok (encode (.op2NNN 0x210)) ∧
      (poke 0x211 0xEE (atPc 0x204 0x2210)).stack.length < 16 ∧ (0x210#12).toNat + 1 ≤ 0xFFF ∧
      (poke 0x211 0xEE (atPc 0x204 0x2210)).byteAt 0x210 = 0x00 ∧
      (poke 0x211 0xEE (atPc 0x204 0x2210)).byteAt 0x211 = 0xEE) ∧
    (fetchWord (poke 0xFFF 0xEE (at200 0x2FFE)) = .ok (encode (.op2NNN 0xFFE)) ∧ (0xFFE#12).toNat + 1 ≤ 0xFFF ∧
      (poke 0xFFF 0xEE (at200 0x2FFE)).byteAt 0xFFF = 0xEE) :=
  ⟨⟨rfl, by decide⟩, rfl, by decide⟩

/-- LogicResetsVF, SkipsOnRegisters: a register other than VF, a sub-opcode other than 0, the first and last bit. -/
theorem test_witness_small : (0xE : Reg) ≠ regF ∧ (0x1 : Nibble) ≠ 0 ∧ 0 < 8 ∧ 7 < 8 := by decide

/-- VFOperandOutcomes: registers other than VF, and a next state for each shape of clause. -/
theorem test_witness_VF_operands :
    (1 : Reg) ≠ regF ∧ (2 : Reg) ≠ regF ∧
    (∃ t, exec (.op8XY4 regF 2) State.reset = .next t) ∧ (∃ t, exec (.op8XY4 1 regF) State.reset = .next t) ∧
    (∃ t, exec (.op8XY4 regF regF) State.reset = .next t) ∧ (∃ t, exec (.op8XY0 regF 2) State.reset = .next t) ∧
    (∃ t, exec (.op8XY1 1 regF) State.reset = .next t) ∧ (∃ t, exec (.op8XYE 1 regF) State.reset = .next t) :=
  ⟨by decide, by decide, ⟨_, rfl⟩, ⟨_, rfl⟩, ⟨_, rfl⟩, ⟨_, rfl⟩, ⟨_, rfl⟩, ⟨_, rfl⟩⟩

/-- GlyphAddressInMemory, ResetHasInvariants: FONT_BASE at both ends of its range. -/
theorem test_witness_font_base :
    ({ defaultConfig with fontBase := 0 } : Config).valid ∧ ({ defaultConfig with fontBase := 0x1B0 } : Config).valid ∧
    (State.resetWith { defaultConfig with fontBase := 0x1B0 }).cfg.valid := by decide

/-- StoresDecimalDigits: the last place in memory, and one above it. -/
theorem test_witness_digits :
    ((withI 0xFFD State.reset).Inv ∧ (withI 0xFFD State.reset).i.toNat + 2 ≤ 0x0FFF) ∧
    (withI 0xFFE State.reset).i.toNat + 2 > 0x0FFF := by decide

/-- StoresRegisterBlock, LoadsRegisterBlock: the last place of the whole file, and one above it. -/
theorem test_witness_block :
    ((withI 0xFF0 State.reset).Inv ∧ (withI 0xFF0 State.reset).i.toNat + (0xF : Reg).toNat ≤ 0x0FFF) ∧
    (withI 0xFF1 State.reset).i.toNat + (0xF : Reg).toNat > 0x0FFF := by decide

/-- StoreThenLoadRestores: a store, other registers in between, and the load from the same I. -/
theorem test_witness_store_load :
    ∃ t w, (withI 0x300 (regs [(0, 1), (1, 2)] State.reset)).Inv ∧
      exec (.opFX55 1) (withI 0x300 (regs [(0, 1), (1, 2)] State.reset)) = .next t ∧
      exec (.opFX65 1) (withI 0x300 (regs [(0, 7)] t)) = .next w ∧ w.getV 0 = 1 ∧ w.getV 1 = 2 :=
  ⟨_, _, by decide, rfl, rfl, by decide, by decide⟩

/-- StoreChangesTheNextFetch: FX55 with X = 1 and I at the next word. -/
theorem test_witness_self_modifying :
    (withI 0x202 (at200 0xF155)).Inv ∧ fetchWord (withI 0x202 (at200 0xF155)) = .ok (encode (.opFX55 1)) ∧
    1 ≤ (1 : Reg).toNat ∧ (withI 0x202 (at200 0xF155)).i = (withI 0x202 (at200 0xF155)).pc + 2 ∧
    (withI 0x202 (at200 0xF155)).i.toNat + (1 : Reg).toNat ≤ 0x0FFF :=
  ⟨by decide, rfl, by decide⟩

/-- DrawInvertsCoveredCells: a sprite in the last byte, one with no row above memory, and a covered cell that is set,
one that is not, and an uncovered one. -/
theorem test_witness_draw :
    (withI 0xFFF State.reset).dataInBounds (1 : Nibble).toNat ∧ (withI 0xFFFF State.reset).dataInBounds (0 : Nibble).toNat ∧
    (∃ j, (withI 0x300 (poke 0x300 0x80 (cells [66] (regs [(0, 2), (1, 1)] State.reset)))).covers 0 1 1 j ∧
      (cells [66] State.reset).fb.getLsbD j = true) ∧
    (∃ j, (withI 0x300 (poke 0x300 0x80 State.reset)).covers 0 1 1 j ∧ State.reset.fb.getLsbD j = false) ∧
    ¬ State.reset.covers 0 1 0 5 :=
  ⟨by decide, by decide, ⟨66, ⟨0, 0, by decide, by decide, by decide, by decide⟩, by decide +kernel⟩,
    ⟨0, ⟨0, 0, by decide, by decide, by decide, by decide⟩, by decide +kernel⟩,
    fun ⟨_, _, h, _⟩ => absurd h (Nat.not_lt_zero _)⟩

/-- DrawTwiceRestores: two draws, on a clear cell and on a set one; the second draw's VF is as the statement says. -/
theorem test_witness_draw_twice :
    (∃ t u, exec (.opDXYN 0 1 1) (withI 0x300 (poke 0x300 0x80 State.reset)) = .next t ∧
      exec (.opDXYN 0 1 1) t = .next u ∧ u.getV regF = 1 ∧ u.fb = 0) ∧
    (∃ t u, exec (.opDXYN 0 1 1) (withI 0x300 (poke 0x300 0x80 (cells [0] State.reset))) = .next t ∧
      exec (.opDXYN 0 1 1) t = .next u ∧ u.getV regF = 0 ∧ u.fb = 1) ∧
    (0 : Reg) ≠ regF ∧ (1 : Reg) ≠ regF ∧ (withI 0x300 State.reset).dataInBounds (1 : Nibble).toNat :=
  ⟨⟨_, _, rfl, rfl, by decide +kernel, by decide +kernel⟩, ⟨_, _, rfl, rfl, by decide +kernel, by decide +kernel⟩,
    by decide, by decide, by decide⟩

/-- DrawOutOfBoundsAndEmpty: the second byte of a sprite at the top of memory. -/
theorem test_witness_draw_fault :
    (2 : Nibble).toNat > 0 ∧ (withI 0xFFF State.reset).i.toNat + (2 : Nibble).toNat - 1 > 0x0FFF := by decide

/-- KeySkips, WaitTakesLowestKey: the last key number and the first above, the last key alone, and no key. -/
theorem test_witness_keys :
    ((regs [(1, 15)] State.reset).getV 1).toNat < 16 ∧ ((regs [(1, 16)] State.reset).getV 1).toNat > 0x0F ∧
    ((press 15 State.reset).key[15] = true ∧ ∀ q (h : q < 15), (press 15 State.reset).key[q] = false) ∧
    (∀ k (h : k < 16), State.reset.key[k] = false) := by decide

/-- WaitHoldsUntilAKey: vector L1-7 before the key, and the last key. -/
theorem test_witness_wait :
    fetchWord (atPc 0x210 0xF30A) = .ok (encode (.opFX0A 3)) ∧
    (∀ q (h : q < 16), (atPc 0x210 0xF30A).key[q] = false) ∧ 15 < 16 :=
  ⟨rfl, by decide, by decide⟩

/-- TimersAreSetOnlyByTheirInstructions: a step that is neither FX15 nor FX18. -/
theorem test_witness_timers :
    (∃ t, step { at200 0x6001 with dt := 3 } = .next t ∧ t.dt = 2) ∧
    fetchWord { at200 0x6001 with dt := 3 } = .ok 0x6001 ∧
    (∀ x, (0x6001 : Word) ≠ encode (.opFX15 x)) ∧ (∀ x, (0x6001 : Word) ≠ encode (.opFX18 x)) :=
  ⟨⟨_, rfl, by decide⟩, rfl, by decide, by decide⟩

/-- StepKeepsInvariant, SessionKeepsInvariant: a state in the invariant with a byte listed, and a step. -/
theorem test_witness_invariant : (at200 0x6001).Inv ∧ ∃ t, step (at200 0x6001) = .next t := ⟨by decide, ⟨_, rfl⟩⟩

/-- StepKeepsPcBound: a state at the bound, and a step. -/
theorem test_witness_pc_bound :
    ({ State.reset with pc := 0x10FE, stack := [0x1000] } : State).PcInv ∧
    (got (step { State.reset with pc := 0x10FE, stack := [0x1000] })).isSome = true := ⟨by simp [State.PcInv], by decide⟩

/-- The frames: a next state of an instruction that stores, and a register it may not write. -/
theorem test_witness_frames :
    (∃ t, exec (.opFX55 0) (withI 0x300 State.reset) = .next t) ∧ mayWriteReg (.opFX55 0) 0 = false ∧
    (∃ t, exec (.opFX65 0) (withI 0x300 State.reset) = .next t) ∧ mayWriteReg (.opFX65 0) 1 = false :=
  ⟨⟨_, rfl⟩, by decide, ⟨_, rfl⟩, by decide⟩

/-- RedrawIsClearedOnlyByTheHost: a call that clears the flag, and a step that sets it. -/
theorem test_witness_redraw :
    (∃ t, runCall { State.reset with redraw := true } .ackFrame = .next t ∧ t.redraw = false) ∧
    (∃ t, step (at200 0x00E0) = .next t ∧ (at200 0x00E0).redraw = false ∧ t.redraw = true) :=
  ⟨⟨_, rfl, by decide⟩, ⟨_, rfl, by decide, by decide⟩⟩

/-- UnreadStateHasNoInfluence: two states that differ in each piece no instruction reads. -/
theorem test_witness_unread :
    (at200 0xF07F).agreesOnRead { at200 0xF07F with st := 9, redraw := true, wait := .waiting } ∧
    ∃ t, step (at200 0xF07F) = .next t := ⟨rfl, ⟨_, rfl⟩⟩

/-- LoadPlacesTheRom: the longest ROM, the empty one, and one byte too many. -/
theorem test_witness_load :
    State.reset.loadOpen = true ∧ State.reset.Inv ∧ (List.replicate 3584 (0xAA : Byte)).length ≤ 3584 ∧
    ([] : List Byte).length ≤ 3584 ∧ (List.replicate 3585 (0xAA : Byte)).length > 3584 ∧
    ∃ t, portLoad (some [0x12]) State.reset = .next (.ok, t) ∧ t.byteAt 0x200 = 0x12 ∧ t.byteAt 0x201 = 0 :=
  ⟨by decide, by decide, List.length_replicate.le, by decide,
    (by decide : 3584 < 3585).trans_eq List.length_replicate.symm, ⟨_, rfl, by decide, by decide⟩⟩

/-- LoadIsRefusedLater: a step, a load that succeeds, and a state where load is closed. -/
theorem test_witness_load_refused :
    (∃ t, step State.reset = .next t ∧ t.loadOpen = false) ∧
    (∃ t, portLoad (some []) State.reset = .next (.ok, t) ∧ t.loadOpen = false) :=
  ⟨⟨_, rfl, by decide⟩, ⟨_, rfl, by decide⟩⟩

/-- HostPortsDoOneThing: the edges of the key numbers and of the display, and both timer modes. -/
theorem test_witness_ports :
    15 < 16 ∧ 16 > 15 ∧ State.reset.cfg.timerMode = .perStep ∧
    ({ State.reset with cfg := external } : State).cfg.timerMode = .externalTick ∧
    (63 < 64 ∧ 31 < 32) ∧ (64 ≥ 64 ∨ 0 ≥ 32) ∧ (0 ≥ 64 ∨ 32 ≥ 32) := by decide

end Sys2Proof.Tests
end

section
/-! PROOFS. Decoding by class: what the dispatch on `op[15:12]` answers (R105, R107), the sub-field tables of classes
8, E and F (R109 to R111), and O3 from the two. -/

namespace Sys2Proof

section Dispatch
variable {op : Word}

theorem decodeWord_of_class8 (h : fieldClass op = 0x8#4) :
    decodeWord op = decodeClass8 (fieldX op) (fieldY op) (fieldN op) := by
  simp [decodeWord, h]

theorem decodeWord_of_classE (h : fieldClass op = 0xE#4) :
    decodeWord op = decodeClassE (fieldX op) (fieldNN op) := by
  simp [decodeWord, h]

theorem decodeWord_of_classF (h : fieldClass op = 0xF#4) :
    decodeWord op = decodeClassF (fieldX op) (fieldNN op) := by
  simp [decodeWord, h]

end Dispatch

/-- The classes 1, 2, A and B hold the one instruction of an address (R107, format FA). -/
theorem decodeWord_address_classes (nnn : Addr12) :
    decodeWord (0x1#4 ++ nnn) = some (.op1NNN nnn) ∧ decodeWord (0x2#4 ++ nnn) = some (.op2NNN nnn) ∧
    decodeWord (0xA#4 ++ nnn) = some (.opANNN nnn) ∧ decodeWord (0xB#4 ++ nnn) = some (.opBNNN nnn) := by
  refine ⟨?_, ?_, ?_, ?_⟩ <;> simp only [decodeWord, fieldClass_FA, fieldNNN_FA]

/-- The classes 3, 4, 6, 7 and C hold the one instruction of a register and a byte (R107, format FB). -/
theorem decodeWord_byte_classes (x : Reg) (nn : Byte) :
    decodeWord (0x3#4 ++ x ++ nn) = some (.op3XNN x nn) ∧ decodeWord (0x4#4 ++ x ++ nn) = some (.op4XNN x nn) ∧
    decodeWord (0x6#4 ++ x ++ nn) = some (.op6XNN x nn) ∧ decodeWord (0x7#4 ++ x ++ nn) = some (.op7XNN x nn) ∧
    decodeWord (0xC#4 ++ x ++ nn) = some (.opCXNN x nn) := by
  refine ⟨?_, ?_, ?_, ?_, ?_⟩ <;> simp only [decodeWord, fieldClass_FB, fieldX_FB, fieldNN_FB]

/-- Class D holds DXYN, with any N (R107, format FD). -/
theorem decodeWord_classD (x y : Reg) (n : Nibble) :
    decodeWord (0xD#4 ++ x ++ y ++ n) = some (.opDXYN x y n) := by
  simp only [decodeWord, fieldClass_FR, fieldX_FR, fieldY_FR, fieldN_FR]

/-- The table of R109, N outside it being Unknown. -/
theorem decodeClass8_eq_ite (x y : Reg) (n : Nibble) :
    decodeClass8 x y n =
      if n = 0x0 then some (.op8XY0 x y) else if n = 0x1 then some (.op8XY1 x y)
      else if n = 0x2 then some (.op8XY2 x y) else if n = 0x3 then some (.op8XY3 x y)
      else if n = 0x4 then some (.op8XY4 x y) else if n = 0x5 then some (.op8XY5 x y)
      else if n = 0x6 then some (.op8XY6 x y) else if n = 0x7 then some (.op8XY7 x y)
      else if n = 0xE then some (.op8XYE x y) else none := by
  unfold decodeClass8
  split
  -- the default arm: each comparison of the table has failed
  case h_10 => simp_all
  all_goals rfl

/-- The table of R110, NN outside it being Unknown. -/
theorem decodeClassE_eq_ite (x : Reg) (nn : Byte) :
    decodeClassE x nn =
      if nn = 0x9E then some (.opEX9E x) else if nn = 0xA1 then some (.opEXA1 x) else none := by
  unfold decodeClassE
  split
  -- the default arm: each comparison of the table has failed
  case h_3 => simp_all
  all_goals rfl

/-- The table of R111, NN outside it being Unknown. -/
theorem decodeClassF_eq_ite (x : Reg) (nn : Byte) :
    decodeClassF x nn =
      if nn = 0x07 then some (.opFX07 x) else if nn = 0x0A then some (.opFX0A x)
      else if nn = 0x15 then some (.opFX15 x) else if nn = 0x18 then some (.opFX18 x)
      else if nn = 0x1E then some (.opFX1E x) else if nn = 0x29 then some (.opFX29 x)
      else if nn = 0x33 then some (.opFX33 x) else if nn = 0x55 then some (.opFX55 x)
      else if nn = 0x65 then some (.opFX65 x) else none := by
  unfold decodeClassF
  split
  -- the default arm: each comparison of the table has failed
  case h_10 => simp_all
  all_goals rfl

/-- Settles O3: the word's fields are the ones it was written from, so the dispatch picks its class, and classes 8, E
and F answer by their tables. -/
theorem decodeByClass : Obligations.DecodeByClass := by
  refine ⟨decodeWord_address_classes, decodeWord_byte_classes, decodeWord_classD, ?class8, ?classE, ?classF⟩
  case class8 =>
    intro x y n
    rw [decodeWord_of_class8 fieldClass_FR, fieldX_FR, fieldY_FR, fieldN_FR, decodeClass8_eq_ite]
  case classE =>
    intro x nn
    rw [decodeWord_of_classE fieldClass_FB, fieldX_FB, fieldNN_FB, decodeClassE_eq_ite]
  case classF =>
    intro x nn
    rw [decodeWord_of_classF fieldClass_FB, fieldX_FB, fieldNN_FB, decodeClassF_eq_ite]

end Sys2Proof
end

section
/-! PROOFS. Frames: how `onlyChanges` composes, what it says of each kind of update, and how an instruction's end
(R136, R137) gives `completes` and `raises`. -/

namespace Sys2Proof.Machine

variable {s t u : State} {ps qs : List Piece}

/-! ### Composing frames -/

theorem onlyChanges.refl (s : State) (ps : List Piece) : onlyChanges ps s s := by
  intro p _
  cases p
  case mem => exact fun _ => rfl
  all_goals rfl

theorem Piece.same.trans {p : Piece} (hst : p.same s t) (htu : p.same t u) : p.same s u := by
  cases p
  case mem => exact fun a => (htu a).trans (hst a)
  all_goals exact Eq.trans htu hst

theorem onlyChanges.mono (h : onlyChanges ps s t) (hsub : ps ⊆ qs) : onlyChanges qs s t :=
  fun p hp => h p fun hmem => hp (hsub hmem)

/-- What two changes in a row leave alone together. -/
theorem onlyChanges.append (hst : onlyChanges ps s t) (htu : onlyChanges qs t u) : onlyChanges (ps ++ qs) s u :=
  fun p hp => (hst p fun h => hp (List.mem_append_left _ h)).trans (htu p fun h => hp (List.mem_append_right _ h))

theorem onlyChanges.trans (hst : onlyChanges ps s t) (htu : onlyChanges ps t u) : onlyChanges ps s u :=
  fun p hp => (hst p hp).trans (htu p hp)

/-- A piece that is the same after all need not be listed. -/
theorem onlyChanges.of_cons {p : Piece} (h : onlyChanges (p :: ps) s t) (hp : p.same s t) : onlyChanges ps s t := by
  intro q hq
  by_cases hqp : q = p
  · exact hqp ▸ hp
  · exact h q (by simp [hqp, hq])

/-! ### The frame of each update -/

/-- The writes of a return and a call (R150, R153). -/
theorem onlyChanges_stack_pc (s : State) (ws : List Word) (w : Word) :
    onlyChanges [.stack, .pc] s { s with stack := ws, pc := w } := by
  intro p hp
  cases p
  case stack | pc => simp at hp
  case mem => exact fun _ => rfl
  all_goals rfl

theorem onlyChanges_pc (s : State) (w : Word) : onlyChanges [.pc] s { s with pc := w } :=
  (onlyChanges_stack_pc s s.stack w).of_cons rfl

/-- The writes of a fault (R137, R268). -/
theorem onlyChanges_faultMark_result (s : State) (b : Bool) (r : Option StepResult) :
    onlyChanges [.faultMark, .result] s { s with faultMark := b, result := r } := by
  intro p hp
  cases p
  case faultMark | result => simp at hp
  case mem => exact fun _ => rfl
  all_goals rfl

theorem onlyChanges_result (s : State) (r : Option StepResult) : onlyChanges [.result] s { s with result := r } :=
  (onlyChanges_faultMark_result s s.faultMark r).of_cons rfl

/-- The start of a step touches the timers and `loadOpen` alone (R130). -/
theorem onlyChanges_beginStep (s : State) : onlyChanges [.dt, .st, .loadOpen] s (beginStep s) := by
  intro p hp
  cases p
  case dt | st | loadOpen => simp at hp
  all_goals simp [Piece.same]

/-! ### The end of an instruction -/

/-- An instruction that completes in `t` (R136). -/
theorem completes_of_complete {i : Instr} {post : State → Prop} (hexec : exec i s = complete t)
    (hframe : onlyChanges ps s t) (hpost : post { t with result := some .ok }) : completes i s ps post :=
  ⟨_, hexec, rfl, hpost,
    (hframe.append (onlyChanges_result t _)).mono (List.append_subset.2 (by simp))⟩

/-- An instruction that raises a fault (R137). -/
theorem raises_of_raise {i : Instr} {f : Fault} (hexec : exec i s = raise f (encode i) s) : raises i s f :=
  ⟨_, hexec, rfl, rfl, (onlyChanges_faultMark_result s true _).mono (by simp)⟩

end Sys2Proof.Machine
end

section
/-! PROOFS. Steps in a row: a step by its fetched instruction (R130), and the one induction over `runSteps`. -/

namespace Sys2Proof.Machine

variable {s t : State}

/-- A step runs the instruction its fetch reads (R130, R134). -/
theorem step_of_fetch {op : Word} {i : Instr} (hfetch : fetchWord s = .ok op) (hdecode : decodeWord op = some i) :
    step s = exec i (beginStep s).advance := by
  simp only [step, fetchWord_beginStep, hfetch, hdecode]

theorem runSteps_succ (n : Nat) (h : step s = .next t) : runSteps (n + 1) s = runSteps n t := by
  simp only [runSteps, List.replicate_succ, runCalls, runCall, h]

/-- What holds of a state and is kept by some next state of every step holds after any number of steps. -/
theorem runSteps_induction {P : State → Prop} (hstep : ∀ t, P t → ∃ u, step t = .next u ∧ P u) (n : Nat) (hs : P s) :
    P (runSteps n s) := by
  induction n generalizing s with
  | zero => exact hs
  | succ n ih =>
    obtain ⟨t, hst, ht⟩ := hstep s hs
    rw [runSteps_succ n hst]
    exact ih ht

/-- The fetch reads PC and memory alone (R131). -/
theorem fetchWord_congr (hpc : t.pc = s.pc) (hmem : ∀ a, t.byteAt a = s.byteAt a) : fetchWord t = fetchWord s := by
  simp only [fetchWord, hpc, hmem]

theorem State.AtEnd.congr (h : s.AtEnd) (hpc : t.pc = s.pc) (hmem : ∀ a, t.byteAt a = s.byteAt a) : t.AtEnd := by
  obtain ⟨nnn, hfetch, htarget⟩ := h
  exact ⟨nnn, (fetchWord_congr hpc hmem).trans hfetch, htarget.trans (congrArg _ hpc.symm)⟩

end Sys2Proof.Machine
end

section
/-! PROOFS. Control flow: return, jump, call and the register-compare skips (R150, R152, R153, R155 to R158). -/

namespace Sys2Proof.Machine

/-! ### Return and call -/

section Stack
variable {s : State}

theorem exec_00EE_of_cons {w : Word} {ws : List Word} (h : s.stack = w :: ws) :
    exec .op00EE s = complete (({ s with stack := ws } : State).jump w) := by
  simp only [exec, exec00EE, State.pop, h, Except.map, finish]

theorem exec_00EE_of_nil (h : s.stack = []) : exec .op00EE s = raise .stackUnderflow (encode .op00EE) s := by
  simp only [exec, exec00EE, State.pop, h, Except.map, finish]

theorem exec_2NNN_of_lt (nnn : Addr12) (h : s.stack.length < stackDepth) :
    exec (.op2NNN nnn) s = complete (({ s with stack := s.pc :: s.stack } : State).jump (addrNNN nnn)) := by
  simp only [exec, exec2NNN, State.push, if_neg h.not_ge, Except.map, finish]

theorem exec_2NNN_of_le (nnn : Addr12) (h : stackDepth ≤ s.stack.length) :
    exec (.op2NNN nnn) s = raise .stackOverflow (encode (.op2NNN nnn)) s := by
  simp only [exec, exec2NNN, State.push, if_pos h, Except.map, finish]

end Stack

theorem addrNNN_toNat (nnn : Addr12) : (addrNNN nnn).toNat = nnn.toNat :=
  BitVec.toNat_setWidth_of_le (by decide)

/-- Settles O13: `pop` has a case for an empty stack and one for an entry, and `exec` ends by it. -/
theorem returnPopsOrUnderflows : Obligations.ReturnPopsOrUnderflows := by
  refine ⟨by decide, ?pops, ?underflows⟩
  case pops =>
    intro s w ws h
    exact completes_of_complete (exec_00EE_of_cons h) ((onlyChanges_stack_pc s ws w).mono (by simp)) ⟨rfl, rfl⟩
  case underflows => exact fun s h => raises_of_raise (exec_00EE_of_nil h)

/-- Settles O16: `push` has a case below the stack's depth and one at it, and `exec` ends by it. -/
theorem callPushesOrOverflows : Obligations.CallPushesOrOverflows := by
  refine ⟨fun nnn => (decodeWord_address_classes nnn).2.1, ?pushes, ?overflows⟩
  case pushes =>
    intro s nnn h
    exact completes_of_complete (exec_2NNN_of_lt nnn h) ((onlyChanges_stack_pc s _ _).mono (by simp))
      ⟨addrNNN_toNat nnn, rfl⟩
  case overflows => exact fun s nnn h => raises_of_raise (exec_2NNN_of_le nnn h.ge)

/-! ### Jump -/

/-- At a program's end a step takes the jump to itself once more: PC comes back to where the fetch left from, so only
what the start of a step and the result write has changed (R140, R152). -/
theorem State.AtEnd.kept_by_step {s : State} (h : s.AtEnd) :
    ∃ t, step s = .next t ∧ t.AtEnd ∧ onlyChanges [.dt, .st, .result, .loadOpen] s t := by
  have ⟨nnn, hfetch, htarget⟩ := h
  have hpc : addrNNN nnn = s.pc := BitVec.eq_of_toNat_eq ((addrNNN_toNat nnn).trans htarget)
  have hstep := step_of_fetch hfetch (decodeWord_address_classes nnn).1
  have hframe : onlyChanges [.pc, .dt, .st, .result, .loadOpen] s _ :=
    (((onlyChanges_beginStep s).append (onlyChanges_pc _ (addrNNN nnn))).append
      (onlyChanges_result _ (some .ok))).mono (by simp)
  exact ⟨_, hstep, h.congr hpc (hframe .mem (by simp)), hframe.of_cons hpc⟩

/-- Settles O15: the self-jump clause by induction over the steps, the invariant being that the program is at its end
and has changed nothing else since. -/
theorem jumpLoadsPc : Obligations.JumpLoadsPc := by
  refine ⟨fun nnn => (decodeWord_address_classes nnn).1, ?jumps, ?selfJump⟩
  case jumps =>
    intro s nnn
    exact completes_of_complete rfl (onlyChanges_pc s (addrNNN nnn)) (addrNNN_toNat nnn)
  case selfJump =>
    intro s n hend
    refine runSteps_induction (P := fun t => t.AtEnd ∧ onlyChanges [.dt, .st, .result, .loadOpen] s t) ?_ n
      ⟨hend, .refl s _⟩
    rintro t ⟨ht, hst⟩
    obtain ⟨u, htu, hu, hframe⟩ := ht.kept_by_step
    exact ⟨u, htu, hu, hst.trans hframe⟩

/-! ### Skips -/

/-- Class 5 holds 5XY0, N other than 0 being Unknown (R108). -/
theorem decodeWord_class5 (x y : Reg) (n : Nibble) :
    decodeWord (0x5#4 ++ x ++ y ++ n) = if n = 0#4 then some (.op5XY0 x y) else none := by
  simp only [decodeWord, fieldClass_FR, fieldX_FR, fieldY_FR, fieldN_FR]

/-- Class 9 holds 9XY0, N other than 0 being Unknown (R108). -/
theorem decodeWord_class9 (x y : Reg) (n : Nibble) :
    decodeWord (0x9#4 ++ x ++ y ++ n) = if n = 0#4 then some (.op9XY0 x y) else none := by
  simp only [decodeWord, fieldClass_FR, fieldX_FR, fieldY_FR, fieldN_FR]

section Skip
variable {i : Instr} {s : State} {a b : Byte}

/-- A skip taken when two bytes are equal (R155, R157). -/
theorem completes_skip_of_eq (hexec : exec i s = complete (s.skipIf (a == b))) :
    completes i s [.pc] fun t => t.pc = if a = b then s.pc + 2 else s.pc :=
  completes_of_complete hexec (onlyChanges_pc s _) (by simp)

/-- A skip taken when two bytes differ (R156, R158). -/
theorem completes_skip_of_ne (hexec : exec i s = complete (s.skipIf (a != b))) :
    completes i s [.pc] fun t => t.pc = if a = b then s.pc else s.pc + 2 :=
  completes_of_complete hexec (onlyChanges_pc s _) (by simp)

end Skip

/-- Settles O18: 3XNN and 4XNN are the two skips, on VX and NN. -/
theorem skipsOnImmediate : Obligations.SkipsOnImmediate := by
  intro s x nn
  obtain ⟨h3, h4, -⟩ := decodeWord_byte_classes x nn
  exact ⟨h3, h4, completes_skip_of_eq rfl, completes_skip_of_ne rfl⟩

/-- Settles O19: 5XY0 and 9XY0 are the two skips, on VX and VY, and their classes ask for N = 0. -/
theorem skipsOnRegisters : Obligations.SkipsOnRegisters := by
  intro s x y
  refine ⟨(decodeWord_class5 x y _).trans (if_pos rfl), (decodeWord_class9 x y _).trans (if_pos rfl), ?unknown,
    completes_skip_of_eq rfl, completes_skip_of_ne rfl⟩
  case unknown =>
    intro n hn
    exact ⟨(decodeWord_class5 x y n).trans (if_neg hn), (decodeWord_class9 x y n).trans (if_neg hn)⟩

end Sys2Proof.Machine
end

section
/-! PROOFS. Register loads, 7XNN and logic: what an instruction that writes one register, or one register and then VF,
leaves in every register (R170 to R175). -/

namespace Sys2Proof.Machine

/-- Class 8 answers by its table (R109). -/
theorem decodeWord_class8 (x y : Reg) (n : Nibble) : decodeWord (0x8#4 ++ x ++ y ++ n) = decodeClass8 x y n := by
  rw [decodeWord_of_class8 fieldClass_FR, fieldX_FR, fieldY_FR, fieldN_FR]

/-- A write of the register file (R31). -/
theorem onlyChanges_v (s : State) (v : Vector Byte 16) : onlyChanges [.v] s { s with v := v } := by
  intro p hp
  cases p
  case v => simp at hp
  case mem => exact fun _ => rfl
  all_goals rfl

section Writes
variable {i : Instr} {s : State} {x : Reg} {b : Byte}

theorem completes.imp {ps : List Piece} {P Q : State → Prop} (h : completes i s ps P) (hPQ : ∀ t, P t → Q t) :
    completes i s ps Q := by
  obtain ⟨t, hexec, hok, hP, hframe⟩ := h
  exact ⟨t, hexec, hok, hPQ t hP, hframe⟩

/-- An instruction that writes VX alone. -/
theorem completes_setV (hexec : exec i s = complete (s.setV x b)) :
    completes i s [.v] fun t => ∀ r, t.getV r = if r = x then b else s.getV r :=
  completes_of_complete hexec (onlyChanges_v s _) fun r => s.getV_setV x r b

/-- An instruction that writes VX and then VF, where the flag stands also for X = F. -/
theorem completes_setThenFlag {flag : Byte} (hexec : exec i s = complete (s.setThenFlag x b flag)) :
    completes i s [.v] fun t => ∀ r, t.getV r = if r = regF then flag else if r = x then b else s.getV r :=
  completes_of_complete hexec (onlyChanges_v s _) fun r => s.getV_setThenFlag x r b flag

/-- An instruction that writes a result to VX and then 0 to VF, by the result's bits `g`. -/
theorem completes_bits_of_setThenFlag_zero {g : Nat → Bool} (hexec : exec i s = complete (s.setThenFlag x b 0))
    (hbits : ∀ k, b.getLsbD k = g k) :
    completes i s [.v] fun t => t.getV regF = 0 ∧ ∀ r, r ≠ regF →
      ∀ k, k < 8 → (t.getV r).getLsbD k = if r = x then g k else (s.getV r).getLsbD k := by
  refine (completes_setThenFlag hexec).imp fun t ht => ⟨(ht regF).trans (if_pos rfl), fun r hr k _ => ?_⟩
  rw [ht r, if_neg hr, apply_ite (fun v : Byte => v.getLsbD k), hbits k]

end Writes

/-- Settles O21: the three instructions write VX alone; 7XNN's sum of bytes is the sum modulo 256. -/
theorem loadsAndAddImmediate : Obligations.LoadsAndAddImmediate := by
  intro s x y nn
  obtain ⟨-, -, h6, h7, -⟩ := decodeWord_byte_classes x nn
  refine ⟨h6, h7, decodeWord_class8 x y _, completes_setV rfl, ?add, completes_setV rfl⟩
  case add =>
    refine (completes_setV (b := s.getV x + nn) rfl).imp fun t ht r => ?_
    rw [ht r, apply_ite BitVec.toNat, BitVec.toNat_add]

/-- Settles O22: the three instructions write their result to VX and then 0 to VF, and OR, AND and XOR act on each
bit. -/
theorem logicResetsVF : Obligations.LogicResetsVF := by
  intro s x y
  exact ⟨decodeWord_class8 x y _, decodeWord_class8 x y _, decodeWord_class8 x y _,
    completes_bits_of_setThenFlag_zero rfl fun _ => BitVec.getLsbD_or,
    completes_bits_of_setThenFlag_zero rfl fun _ => BitVec.getLsbD_and,
    completes_bits_of_setThenFlag_zero rfl fun _ => BitVec.getLsbD_xor⟩

end Sys2Proof.Machine
end

section
/-! PROOFS. The index register and the stores from it: what a checked write leaves in every byte (R77, R78, R204), and
ANNN, FX33 and FX55 (R200, R203, R204). -/

namespace Sys2Proof.Machine

/-! ### The frame of a write of I and memory -/

theorem onlyChanges_i_mem (s : State) (w : Word) (m : Memory) :
    onlyChanges [.i, .mem] s { s with i := w, mem := m } := by
  intro p hp
  cases p
  case i | mem => simp at hp
  all_goals rfl

theorem onlyChanges_mem (s : State) (m : Memory) : onlyChanges [.mem] s { s with mem := m } :=
  (onlyChanges_i_mem s s.i m).of_cons rfl

theorem onlyChanges_i (s : State) (w : Word) : onlyChanges [.i] s { s with i := w } :=
  ((onlyChanges_i_mem s w s.mem).mono (qs := [.mem, .i]) (by simp)).of_cons fun _ => rfl

/-! ### A checked write -/

section Write
variable {s t : State} {a : Nat} {bs : List Byte}

theorem State.memWrite_of_le (h : a + bs.length ≤ memSize) :
    s.memWrite a bs = .ok { s with mem := Memory.writeBytes s.cfg s.mem a bs } :=
  (s.memWrite_cases a bs).elim And.right fun ⟨hfault, _⟩ => absurd h hfault.2.not_ge

theorem State.memWrite_of_gt (hbs : bs.length ≠ 0) (h : a + bs.length > memSize) :
    s.memWrite a bs = .error (.outOfBoundsAccess .memory (max a memSize)) :=
  (s.memWrite_cases a bs).elim (fun ⟨hok, _⟩ => absurd h (hok.resolve_left hbs).not_gt) And.right

/-- Where bytes were written from `a` up, those bytes are read (R78, R204). -/
theorem State.byteAt_of_written (hwf : Memory.wf s.cfg s.mem) (hbound : a + bs.length ≤ memSize)
    (hcfg : t.cfg = s.cfg) (hmem : t.mem = Memory.writeBytes s.cfg s.mem a bs) {k : Nat} {b : Byte}
    (hb : bs[k]? = some b) : t.byteAt (a + k) = b := by
  obtain ⟨hk, hb⟩ := List.getElem?_eq_some_iff.1 hb
  rw [State.byteAt, hcfg, hmem, Memory.read_writeBytes hwf hbound, dif_pos (by omega)]
  simpa using hb

/-- Outside the bytes written from `a` up, every byte reads as before (R78, R204). -/
theorem State.byteAt_of_not_written (hwf : Memory.wf s.cfg s.mem) (hbound : a + bs.length ≤ memSize)
    (hcfg : t.cfg = s.cfg) (hmem : t.mem = Memory.writeBytes s.cfg s.mem a bs) {a' : Nat}
    (ha' : a' < a ∨ a + bs.length ≤ a') : t.byteAt a' = s.byteAt a' := by
  rw [State.byteAt, hcfg, hmem, Memory.read_writeBytes hwf hbound, dif_neg (by omega), State.byteAt]

/-- An instruction that completes in a state with bytes written from `a` up. -/
theorem completes_store {i : Instr} {ps : List Piece} (hexec : exec i s = complete t) (hframe : onlyChanges ps s t)
    (hwf : Memory.wf s.cfg s.mem) (hbound : a + bs.length ≤ memSize) (hcfg : t.cfg = s.cfg)
    (hmem : t.mem = Memory.writeBytes s.cfg s.mem a bs) :
    completes i s ps fun u =>
      (∀ k b, bs[k]? = some b → u.byteAt (a + k) = b) ∧
      (∀ a', a' < a ∨ a + bs.length ≤ a' → u.byteAt a' = s.byteAt a') ∧ u.i = t.i :=
  completes_of_complete hexec hframe
    ⟨fun _ _ hb => State.byteAt_of_written hwf hbound hcfg hmem hb,
      fun _ ha' => State.byteAt_of_not_written hwf hbound hcfg hmem ha', rfl⟩

end Write

/-! ### The instructions, and where their bytes end -/

/-- Class F answers by its table (R111). -/
theorem decodeWord_classF (x : Reg) (nn : Byte) : decodeWord (0xF#4 ++ x ++ nn) = decodeClassF x nn := by
  rw [decodeWord_of_classF fieldClass_FB, fieldX_FB, fieldNN_FB]

@[simp] theorem digits_length (b : Byte) : (digits b).length = 3 := rfl

theorem blockSize_le (x : Reg) : blockSize x ≤ 16 := x.isLt

theorem State.blockV_blockSize_length (s : State) (x : Reg) : (s.blockV (blockSize x)).length = x.toNat + 1 :=
  s.blockV_length (blockSize_le x)

/-- Every register of the block is in it at its own index (R204). -/
theorem State.blockV_blockSize_getElem (s : State) {x r : Reg} (h : r.toNat ≤ x.toNat) :
    (s.blockV (blockSize x))[r.toNat]? = some (s.getV r) := by
  have hr : r.toNat < blockSize x := Nat.lt_succ_of_le h
  rw [s.blockV_getElem hr (blockSize_le x), BitVec.ofNat_toNat, BitVec.setWidth_eq]

/-! A bound on the last byte's address, at most 0xFFF as the spec writes it (R203, R204), is the bound of the checked
write, at most 4096 past that byte, with one added to both sides. -/

section Exec
variable {s : State} (x : Reg)

theorem exec_FX33_of_le (h : s.i.toNat + 2 ≤ 0x0FFF) :
    exec (.opFX33 x) s =
      complete { s with mem := Memory.writeBytes s.cfg s.mem s.i.toNat (digits (s.getV x)) } := by
  simp only [exec, execFX33, State.addrI, State.memWrite_of_le (bs := digits _) (Nat.succ_le_succ h), finish]

theorem exec_FX33_of_gt (h : s.i.toNat + 2 > 0x0FFF) :
    exec (.opFX33 x) s = raise (.outOfBoundsAccess .memory (max s.i.toNat 0x1000)) (encode (.opFX33 x)) s := by
  simp only [exec, execFX33, State.addrI, State.memWrite_of_gt (bs := digits _) (by simp) (Nat.succ_lt_succ h), finish,
    memSize]

theorem exec_FX55_of_le (h : s.i.toNat + x.toNat ≤ 0x0FFF) :
    exec (.opFX55 x) s =
      complete { s with
        i := s.iPastBlock x, mem := Memory.writeBytes s.cfg s.mem s.i.toNat (s.blockV (blockSize x)) } := by
  have hbound : s.i.toNat + (s.blockV (blockSize x)).length ≤ memSize := by
    rw [s.blockV_blockSize_length]; exact Nat.succ_le_succ h
  simp only [exec, execFX55, State.addrI, State.memWrite_of_le hbound, Except.map, finish]

theorem exec_FX55_of_gt (h : s.i.toNat + x.toNat > 0x0FFF) :
    exec (.opFX55 x) s = raise (.outOfBoundsAccess .memory (max s.i.toNat 0x1000)) (encode (.opFX55 x)) s := by
  have hlen := s.blockV_blockSize_length x
  have hbound : s.i.toNat + (s.blockV (blockSize x)).length > memSize := by
    rw [hlen]; exact Nat.succ_lt_succ h
  simp only [exec, execFX55, State.addrI, State.memWrite_of_gt (by simp [hlen]) hbound, Except.map, finish, memSize]

/-- I past a block that ends in memory is the exact sum (R204, R205). -/
theorem State.iPastBlock_toNat (h : s.i.toNat + x.toNat ≤ 0x0FFF) :
    (s.iPastBlock x).toNat = s.i.toNat + x.toNat + 1 :=
  Nat.mod_eq_of_lt (show s.i.toNat + x.toNat + 1 < 2 ^ 16 by omega)

end Exec

/-- Settles O28: I takes NNN zero-extended, and a 12-bit number is at most 0xFFF. -/
theorem loadIndex : Obligations.LoadIndex := by
  refine ⟨fun nnn => ?decodes, fun s nnn => ?loads⟩
  case decodes =>
    obtain ⟨-, -, hA, -⟩ := decodeWord_address_classes nnn
    exact hA
  case loads =>
    have hnnn := addrNNN_toNat nnn
    exact completes_of_complete rfl (onlyChanges_i s (addrNNN nnn)) ⟨hnnn, hnnn.trans_le (Nat.le_of_lt_succ nnn.isLt)⟩

/-- Settles O31: the write of the three digits is checked as a whole, and each digit fits a byte. -/
theorem storesDecimalDigits : Obligations.StoresDecimalDigits := by
  refine ⟨fun x => decodeWord_classF x _, ?stores, fun s x h => raises_of_raise (exec_FX33_of_gt x h)⟩
  case stores =>
    rintro s x ⟨hwf, -⟩ h
    refine (completes_store (exec_FX33_of_le x h) (onlyChanges_mem s _) hwf (Nat.succ_le_succ h) rfl rfl).imp ?_
    rintro t ⟨hdigit, hframe, -⟩
    have hhundreds : t.byteAt s.i.toNat = _ := hdigit 0 _ rfl
    have hx := (s.getV x).isLt
    refine ⟨?hundreds, ?tens, ?units, hframe⟩
    case hundreds => rw [hhundreds, BitVec.toNat_ofNat, Nat.mod_eq_of_lt (by omega)]
    case tens => rw [hdigit 1 _ rfl, BitVec.toNat_ofNat, Nat.mod_eq_of_lt (by omega)]
    case units => rw [hdigit 2 _ rfl, BitVec.toNat_ofNat, Nat.mod_eq_of_lt (by omega)]

/-- Settles O32: the write of the block is checked as a whole, and byte `k` of the block is `Vk`. -/
theorem storesRegisterBlock : Obligations.StoresRegisterBlock := by
  refine ⟨fun x => decodeWord_classF x _, ?stores, fun s x h => raises_of_raise (exec_FX55_of_gt x h)⟩
  case stores =>
    rintro s x ⟨hwf, -⟩ h
    have hlen := s.blockV_blockSize_length x
    refine (completes_store (exec_FX55_of_le x h) ((onlyChanges_i_mem s _ _).mono (by simp)) hwf
      (hlen ▸ Nat.succ_le_succ h) rfl rfl).imp ?_
    rintro t ⟨hblock, hframe, hi⟩
    rw [hlen] at hframe
    exact ⟨fun r hr => hblock _ _ (s.blockV_blockSize_getElem hr), hframe, hi ▸ s.iPastBlock_toNat x h⟩

end Sys2Proof.Machine
end

section
/-! PROOFS. The display: the frame of a write of FB and REDRAW (R46, R47), and 00E0 (R220). -/

namespace Sys2Proof.Machine

/-- A write of the framebuffer and of REDRAW (R46, R47). -/
theorem onlyChanges_fb_redraw (s : State) (fb : BitVec 2048) (b : Bool) :
    onlyChanges [.fb, .redraw] s { s with fb := fb, redraw := b } := by
  intro p hp
  cases p
  case fb | redraw => simp at hp
  case mem => exact fun _ => rfl
  all_goals rfl

/-- 00E0 ends in an empty framebuffer with REDRAW set, whatever both were before (R220). -/
theorem exec_00E0 (s : State) : exec .op00E0 s = complete { s with fb := 0, redraw := true } := rfl

/-- Settles O36: the framebuffer 00E0 writes is the zero vector, each bit of which is 0. -/
theorem clearScreen : Obligations.ClearScreen := by
  refine ⟨by decide, fun s => ?clears⟩
  case clears =>
    exact completes_of_complete (exec_00E0 s) (onlyChanges_fb_redraw s 0 true)
      ⟨fun _ _ => BitVec.getLsbD_zero, rfl⟩

end Sys2Proof.Machine
end

section
/-! PROOFS. The timers: one decrement (R250) and one tick (R251). -/

namespace Sys2Proof.Machine

/-- A decrement is natural subtraction of one, which stops at 0 (R250). -/
@[simp] theorem countDown_toNat (t : Byte) : (countDown t).toNat = t.toNat - 1 := by
  unfold countDown
  split
  case isTrue h => simp [h]
  case isFalse h => exact BitVec.toNat_sub_of_le (show 1 ≤ t by bv_omega)

/-- A write of the two timers (R42). -/
theorem onlyChanges_dt_st (s : State) (d e : Byte) : onlyChanges [.dt, .st] s { s with dt := d, st := e } := by
  intro p hp
  cases p
  case dt | st => simp at hp
  case mem => exact fun _ => rfl
  all_goals rfl

/-- Settles O45: a tick writes the decrement of each timer, and writes nothing else. -/
theorem tickCountsDown : Obligations.TickCountsDown :=
  fun s => ⟨countDown_toNat s.dt, countDown_toNat s.st, onlyChanges_dt_st s _ _⟩

end Sys2Proof.Machine
end

section
/-! PROOFS. Loading a ROM: what `load` answers where it is defined (R292, R293), and what it leaves in memory. -/

namespace Sys2Proof.Machine

section Load
variable {s : State} {rom : List Byte}

/-- The state a successful load leaves (`portLoad_of_le`): the ROM written from 0x200, and no further load. -/
def State.withRom (s : State) (rom : List Byte) : State :=
  { s with mem := Memory.writeBytes s.cfg s.mem progBase rom, loadOpen := false }

theorem portLoad_none (hopen : s.loadOpen = true) : portLoad none s = .next (.romUnreadable, s) := by
  rw [portLoad, if_pos hopen, loadRom]

theorem portLoad_of_gt (hopen : s.loadOpen = true) (hlen : rom.length > romMax) :
    portLoad (some rom) s = .next (.romTooLarge, s) := by
  rw [portLoad, if_pos hopen, loadRom, if_pos hlen]

theorem portLoad_of_le (hopen : s.loadOpen = true) (hlen : rom.length ≤ romMax) :
    portLoad (some rom) s = .next (.ok, s.withRom rom) := by
  rw [portLoad, if_pos hopen, loadRom, if_neg hlen.not_gt, State.withRom]

/-- A ROM that is not too large ends inside memory. -/
theorem progBase_add_length_le (hlen : rom.length ≤ romMax) : progBase + rom.length ≤ memSize :=
  Nat.add_le_of_le_sub' (by decide) hlen

theorem State.withRom_byteAt_rom (hwf : Memory.wf s.cfg s.mem) (hlen : rom.length ≤ romMax) {k : Nat}
    (hk : k < rom.length) : (s.withRom rom).byteAt (0x200 + k) = rom[k] :=
  State.byteAt_of_written (t := s.withRom rom) hwf (progBase_add_length_le hlen) rfl rfl (List.getElem?_eq_getElem hk)

theorem State.withRom_byteAt_outside (hwf : Memory.wf s.cfg s.mem) (hlen : rom.length ≤ romMax) {a : Nat}
    (ha : a < 0x200 ∨ 0x200 + rom.length ≤ a) : (s.withRom rom).byteAt a = s.byteAt a :=
  State.byteAt_of_not_written (t := s.withRom rom) hwf (progBase_add_length_le hlen) rfl rfl ha

theorem onlyChanges_withRom (s : State) (rom : List Byte) : onlyChanges [.mem, .loadOpen] s (s.withRom rom) := by
  intro p hp
  cases p
  case mem | loadOpen => simp at hp
  all_goals rfl

end Load

/-- With FONT_BASE in its range the glyph table ends below 0x200, so from there up memory is 0 after construction
(R9, R53). -/
theorem resetWith_byteAt_of_le {c : Config} (hc : c.valid) {a : Nat} (ha : 0x200 ≤ a) :
    (State.resetWith c).byteAt a = 0 :=
  have habove : ¬ (c.fontBase ≤ a ∧ a < c.fontBase + 80) := fun h => (h.2.trans_le hc).not_ge ha
  dif_neg habove

/-- Settles O57: a load that succeeds is one write of the ROM's bytes, which end inside memory; so the bytes read are
the ROM's inside it and the old ones outside it, and those are 0 above the glyph table at construction. -/
theorem loadPlacesTheRom : Obligations.LoadPlacesTheRom := by
  refine ⟨fun s => portLoad_none, fun s rom => portLoad_of_gt, ?placed, ?zeroTail⟩
  case placed =>
    intro s rom hopen ⟨hwf, _, _⟩ hlen
    exact ⟨s.withRom rom, portLoad_of_le hopen hlen, fun _ => State.withRom_byteAt_rom hwf hlen,
      fun _ => State.withRom_byteAt_outside hwf hlen, onlyChanges_withRom s rom⟩
  case zeroTail =>
    intro c rom t hc hlen hload a hafter _
    cases (portLoad_of_le rfl hlen).symm.trans hload
    calc ((State.resetWith c).withRom rom).byteAt a
      _ = (State.resetWith c).byteAt a := State.withRom_byteAt_outside (resetWith_mem_wf c) hlen (.inr hafter)
      _ = 0 := resetWith_byteAt_of_le hc ((Nat.le_add_right _ _).trans hafter)

end Sys2Proof.Machine
end

section
/-! PROOFS. The decoder and the encoder as inverses (R100 to R111), and the strictness of classes 0, 5 and 9 (R106,
R108). -/

namespace Sys2Proof

/-! ### Decoding what was encoded -/

theorem decode_encodeBytes {i : Instr} (h : decodeWord (encode i) = some i) (rest : List Byte) :
    decode (encodeBytes i ++ rest) = .instr i rest := by
  simp only [encodeBytes, List.cons_append, List.nil_append, decode, combine_bytes, h]

/-- A word of class 0 is a given one exactly when its NNN is. -/
theorem class0_append_inj {nnn w : Addr12} : 0x0#4 ++ nnn = 0x0#4 ++ w ↔ nnn = w :=
  ⟨fun e => by simpa using congrArg fieldNNN e, congrArg _⟩

/-- Class 0 has no Unknown word, and 00E0 and 00EE come before 0NNN (R106). -/
theorem decodeWord_class0 (nnn : Addr12) :
    decodeWord (0x0#4 ++ nnn) =
      if nnn = 0x0E0 then some .op00E0 else if nnn = 0x0EE then some .op00EE else some (.op0NNN nnn) := by
  have h0E0 : 0x0#4 ++ nnn = 0x00E0#16 ↔ nnn = 0x0E0 := class0_append_inj (w := 0x0E0#12)
  have h0EE : 0x0#4 ++ nnn = 0x00EE#16 ↔ nnn = 0x0EE := class0_append_inj (w := 0x0EE#12)
  simp only [decodeWord, fieldClass_FA, decodeClass0, h0E0, h0EE, fieldNNN_FA, apply_ite some]

/-- Class E answers by its table (R110). -/
theorem decodeWord_classE (x : Reg) (nn : Byte) : decodeWord (0xE#4 ++ x ++ nn) = decodeClassE x nn := by
  rw [decodeWord_of_classE fieldClass_FB, fieldX_FB, fieldNN_FB]

/-- The word of a well-formed instruction decodes to it, class by class. -/
theorem decodeWord_encode {i : Instr} (h : i.wf = true) : decodeWord (encode i) = some i := by
  cases i with
  | op00E0 | op00EE => decide
  | op0NNN nnn =>
    simp only [Instr.wf, Bool.and_eq_true, bne_iff_ne] at h
    exact (decodeWord_class0 nnn).trans ((if_neg h.1).trans (if_neg h.2))
  | op1NNN nnn | op2NNN nnn | opANNN nnn | opBNNN nnn => simp only [encode, decodeWord_address_classes nnn]
  | op3XNN x nn | op4XNN x nn | op6XNN x nn | op7XNN x nn | opCXNN x nn =>
    simp only [encode, decodeWord_byte_classes x nn]
  | op5XY0 x y => exact (Machine.decodeWord_class5 x y _).trans (if_pos rfl)
  | op9XY0 x y => exact (Machine.decodeWord_class9 x y _).trans (if_pos rfl)
  | op8XY0 x y | op8XY1 x y | op8XY2 x y | op8XY3 x y | op8XY4 x y | op8XY5 x y | op8XY6 x y | op8XY7 x y
  | op8XYE x y => exact Machine.decodeWord_class8 x y _
  | opDXYN x y n => exact decodeWord_classD x y n
  | opEX9E x | opEXA1 x => exact decodeWord_classE x _
  | opFX07 x | opFX0A x | opFX15 x | opFX18 x | opFX1E x | opFX29 x | opFX33 x | opFX55 x | opFX65 x =>
    exact Machine.decodeWord_classF x _

/-- No two well-formed instructions have the same word. -/
theorem encode_inj {i j : Instr} (hi : i.wf = true) (hj : j.wf = true) (h : encode i = encode j) : i = j :=
  Option.some.inj ((decodeWord_encode hi).symm.trans (h ▸ decodeWord_encode hj))

/-- Settles O1: the two bytes combine to the instruction's word, which decodes to the instruction. -/
theorem decodeOfEncode : Obligations.DecodeOfEncode :=
  fun _ rest h => decode_encodeBytes (decodeWord_encode h) rest

/-! ### Encoding what was decoded -/

section Formats
variable {op : Word} {c : BitVec 4}

/-- Format FA: a word is its class and NNN. -/
theorem class_append_nnn (h : fieldClass op = c) : c ++ fieldNNN op = op := by
  rw [← h, ← word_eq_class_nnn]

/-- Format FB: a word is its class, X and NN. -/
theorem class_append_x_nn (h : fieldClass op = c) : c ++ fieldX op ++ fieldNN op = op := by
  conv_rhs => rw [← class_append_nnn h, nnn_eq_x_nn]
  exact BitVec.append_assoc

/-- Formats FR and FD: a word is its class, X, Y and N. -/
theorem class_append_x_y_n (h : fieldClass op = c) : c ++ fieldX op ++ fieldY op ++ fieldN op = op := by
  conv_rhs => rw [← class_append_x_nn h, nn_eq_y_n]
  exact BitVec.append_assoc

end Formats

/-- An instruction that is a word's: well-formed and encoded by it. -/
def Instr.isOf (i : Instr) (op : Word) : Prop := i.wf = true ∧ encode i = op

theorem isOf_of_decodeClass0 {op : Word} (h : fieldClass op = 0x0#4) : (decodeClass0 op).isOf op := by
  have hop : 0x0#4 ++ fieldNNN op = op := class_append_nnn h
  unfold decodeClass0
  split
  case isTrue h0E0 => exact ⟨rfl, h0E0.symm⟩
  case isFalse h0E0 =>
    split
    case isTrue h0EE => exact ⟨rfl, h0EE.symm⟩
    case isFalse h0EE =>
      refine ⟨?_, hop⟩
      simp only [Instr.wf, Bool.and_eq_true, bne_iff_ne]
      exact ⟨fun e => h0E0 (hop.symm.trans (congrArg _ e)), fun e => h0EE (hop.symm.trans (congrArg _ e))⟩

theorem isOf_of_decodeClass8 {x y : Reg} {n : Nibble} {i : Instr} (h : decodeClass8 x y n = some i) :
    i.isOf (0x8#4 ++ x ++ y ++ n) := by
  unfold decodeClass8 at h
  split at h
  case h_10 => cases h
  all_goals cases h; exact ⟨rfl, rfl⟩

theorem isOf_of_decodeClassE {x : Reg} {nn : Byte} {i : Instr} (h : decodeClassE x nn = some i) :
    i.isOf (0xE#4 ++ x ++ nn) := by
  unfold decodeClassE at h
  split at h
  case h_3 => cases h
  all_goals cases h; exact ⟨rfl, rfl⟩

theorem isOf_of_decodeClassF {x : Reg} {nn : Byte} {i : Instr} (h : decodeClassF x nn = some i) :
    i.isOf (0xF#4 ++ x ++ nn) := by
  unfold decodeClassF at h
  split at h
  case h_10 => cases h
  all_goals cases h; exact ⟨rfl, rfl⟩

/-- Classes 5 and 9, whose one instruction asks for N = 0 (R108). -/
theorem isOf_of_class_zero {op : Word} {c : BitVec 4} {i j : Instr} (hc : fieldClass op = c)
    (hj : j.isOf (c ++ fieldX op ++ fieldY op ++ 0#4)) (h : (if fieldN op = 0#4 then some j else none) = some i) :
    i.isOf op := by
  by_cases hn : fieldN op = 0#4
  · rw [if_pos hn] at h
    cases h
    rw [← hn, class_append_x_y_n hc] at hj
    exact hj
  · simp [hn] at h

/-- The instruction a word decodes to is that word's, class by class. -/
theorem isOf_of_decodeWord {op : Word} {i : Instr} (h : decodeWord op = some i) : i.isOf op := by
  unfold decodeWord at h
  split at h
  case h_1 hc => cases h; exact isOf_of_decodeClass0 hc
  case h_6 hc => exact isOf_of_class_zero hc ⟨rfl, rfl⟩ h
  case h_9 hc => rw [← class_append_x_y_n hc]; exact isOf_of_decodeClass8 h
  case h_10 hc => exact isOf_of_class_zero hc ⟨rfl, rfl⟩ h
  case h_14 hc => cases h; exact ⟨rfl, class_append_x_y_n hc⟩
  case h_15 hc => rw [← class_append_x_nn hc]; exact isOf_of_decodeClassE h
  case h_16 =>
    -- the last of sixteen classes: every other has been tried
    have hc : fieldClass op = 0xF#4 := by
      clear h
      generalize fieldClass op = c at *
      decide +revert
    rw [← class_append_x_nn hc]
    exact isOf_of_decodeClassF h
  case h_2 hc | h_3 hc | h_11 hc | h_12 hc => cases h; exact ⟨rfl, class_append_nnn hc⟩
  case h_4 hc | h_5 hc | h_7 hc | h_8 hc | h_13 hc => cases h; exact ⟨rfl, class_append_x_nn hc⟩

/-- Settles O2: each class gives back the fields it was read from, in their places. -/
theorem encodeOfDecode : Obligations.EncodeOfDecode := fun _ _ h => isOf_of_decodeWord h

/-! ### Strictness and the vectors' words -/

/-- Settles O4: class 0 compares NNN with the two codes before it, and classes 5 and 9 ask for N = 0. -/
theorem decodeIsStrict : Obligations.DecodeIsStrict :=
  ⟨decodeWord_class0, fun x y n => ⟨Machine.decodeWord_class5 x y n, Machine.decodeWord_class9 x y n⟩⟩

/-- Settles O5: each of the eight byte pairs is decoded by evaluation. -/
theorem decodeOfVectorWords : Obligations.DecodeOfVectorWords := by
  unfold Obligations.DecodeOfVectorWords
  decide

end Sys2Proof
end

section
/-! PROOFS. What an instruction writes or raises, apart from how it ends: `effect`, tied to `exec` by `exec_eq_finish`,
and from it what a step can do (R130 to R138), the frames of all instructions (R34 to R49, R76) and their faults
(R263). -/

namespace Sys2Proof.Machine

/-! ### The effect of an instruction -/

/-- The framebuffer and the collision after a sprite's rows are drawn at (VX, VY) (R221). -/
def State.blit (s : State) (x y : Reg) (rows : List Byte) : Blit :=
  blitRows (s.getV x).toNat (s.getV y).toNat rows (s.fb, false)

/-- The state after a sprite's rows are drawn (R221). -/
def State.drawRows (s : State) (x y : Reg) (rows : List Byte) : State :=
  { s.setV regF (collisionFlag (s.blit x y rows).2) with fb := (s.blit x y rows).1, redraw := true }

/-- The state FX0A leaves: with a key taken, or waiting for one (R245). -/
def State.takeKey (s : State) (x : Reg) : Option Nat → State
  | some k => { s.setV x (BitVec.ofNat 8 k) with wait := .notWaiting }
  | none => { s.rewind with wait := .waiting }

/-- The state an instruction leaves but for the result it returns, or the fault it raises. 0NNN, which reports a
condition, writes nothing (R151). -/
def effect : Instr → State → Except Fault State
  | .op00E0, s => .ok { s with fb := 0, redraw := true }
  | .op00EE, s => s.pop.map fun p => p.2.jump p.1
  | .op0NNN _, s => .ok s
  | .op1NNN nnn, s => .ok (s.jump (addrNNN nnn))
  | .op2NNN nnn, s => (s.push s.pc).map fun t => t.jump (addrNNN nnn)
  | .op3XNN x nn, s => .ok (s.skipIf (s.getV x == nn))
  | .op4XNN x nn, s => .ok (s.skipIf (s.getV x != nn))
  | .op5XY0 x y, s => .ok (s.skipIf (s.getV x == s.getV y))
  | .op6XNN x nn, s => .ok (s.setV x nn)
  | .op7XNN x nn, s => .ok (s.setV x (s.getV x + nn))
  | .op8XY0 x y, s => .ok (s.setV x (s.getV y))
  | .op8XY1 x y, s => .ok (s.setThenFlag x (s.getV x ||| s.getV y) 0)
  | .op8XY2 x y, s => .ok (s.setThenFlag x (s.getV x &&& s.getV y) 0)
  | .op8XY3 x y, s => .ok (s.setThenFlag x (s.getV x ^^^ s.getV y) 0)
  | .op8XY4 x y, s => .ok (s.flagThenSet x (s.getV x + s.getV y) (carryFlag (s.getV x) (s.getV y)))
  | .op8XY5 x y, s => .ok (s.flagThenSet x (s.getV x - s.getV y) (notBorrowFlag (s.getV x) (s.getV y)))
  | .op8XY6 x _, s => .ok (s.flagThenSet x (s.getV x >>> 1) (lowBitFlag (s.getV x)))
  | .op8XY7 x y, s => .ok (s.flagThenSet x (s.getV y - s.getV x) (notBorrowFlag (s.getV y) (s.getV x)))
  | .op8XYE x _, s => .ok (s.flagThenSet x (s.getV x <<< 1) (highBitFlag (s.getV x)))
  | .op9XY0 x y, s => .ok (s.skipIf (s.getV x != s.getV y))
  | .opANNN nnn, s => .ok { s with i := addrNNN nnn }
  | .opBNNN nnn, s => .ok (s.jump (s.addrNNNPlusV0 nnn))
  | .opCXNN x nn, s => .ok (s.draw.2.setV x (s.draw.1 &&& nn))
  | .opDXYN x y n, s => (s.memRead s.addrI n.toNat).map (s.drawRows x y)
  | .opEX9E x, s => (s.keyAt (s.getV x)).map s.skipIf
  | .opEXA1 x, s => (s.keyAt (s.getV x)).map fun b => s.skipIf (!b)
  | .opFX07 x, s => .ok (s.setV x s.dt)
  | .opFX0A x, s => .ok (s.takeKey x s.lowestKey)
  | .opFX15 x, s => .ok { s with dt := s.getV x }
  | .opFX18 x, s => .ok { s with st := s.getV x }
  | .opFX1E x, s => .ok { s.setV regF (rangeFlag s.i (s.getV x)) with
      i := BitVec.ofNat 16 (s.i.toNat + (s.getV x).toNat) }
  | .opFX29 x, s => .ok { s with i := s.glyphAddr (s.getV x) }
  | .opFX33 x, s => s.memWrite s.addrI (digits (s.getV x))
  | .opFX55 x, s => (s.memWrite s.addrI (s.blockV (blockSize x))).map fun t => { t with i := s.iPastBlock x }
  | .opFX65 x, s => (s.memRead s.addrI (blockSize x)).map fun bytes => { s.loadV bytes with i := s.iPastBlock x }

/-! ### How an instruction ends -/

section Exec
variable {i : Instr} {s t u : State}

/-- FX0A always completes (R245). -/
theorem exec_FX0A (x : Reg) (s : State) : exec (.opFX0A x) s = complete (s.takeKey x s.lowestKey) := by
  simp only [exec, execFX0A]
  cases s.lowestKey <;> rfl

/-- Every instruction but 0NNN keeps its effect and returns Ok, or raises its fault (R135 to R137). -/
theorem exec_eq_finish (hi : ∀ nnn, i ≠ .op0NNN nnn) (s : State) : exec i s = finish (encode i) s (effect i s) := by
  cases i
  case op0NNN nnn => exact absurd rfl (hi nnn)
  case opFX0A x => exact exec_FX0A x s
  all_goals rfl

/-- What an instruction can answer: the end of its effect, its fault, or 0NNN's report. -/
theorem exec_cases (i : Instr) (s : State) :
    (∃ u, effect i s = .ok u ∧ exec i s = .next { u with result := some .ok }) ∨
    (∃ f, effect i s = .error f ∧
      exec i s = .next { s with result := some (.fault f s.pc0 (some (encode i))), faultMark := true }) ∨
    (∃ nnn, i = .op0NNN nnn ∧
      exec i s = .next { s with result := some (.cond .unimplemented s.pc0 (encode i)) }) := by
  by_cases hi : ∃ nnn, i = .op0NNN nnn
  · obtain ⟨nnn, rfl⟩ := hi
    exact .inr (.inr ⟨nnn, rfl, rfl⟩)
  · rw [exec_eq_finish fun nnn h => hi ⟨nnn, h⟩]
    rcases finish_cases (encode i) s (effect i s) with h | h
    · exact .inl h
    · exact .inr (.inl h)

/-- What an instruction leaves besides its result and the mark: its effect, or nothing written. -/
theorem exec_writes (h : exec i s = .next t) :
    ∃ u r m, (effect i s = .ok u ∨ u = s) ∧ t = { u with result := r, faultMark := m } := by
  rcases exec_cases i s with ⟨u, hu, he⟩ | ⟨f, -, he⟩ | ⟨nnn, -, he⟩ <;> cases he.symm.trans h
  · exact ⟨u, _, _, .inl hu, rfl⟩
  · exact ⟨s, _, _, .inr rfl, rfl⟩
  · exact ⟨s, _, _, .inr rfl, rfl⟩

end Exec

/-! ### What a step can do -/

/-- The address an instruction was fetched from, after the fetch's advance (R132). -/
@[simp] theorem State.advance_pc0 (s : State) : s.advance.pc0 = s.pc := BitVec.add_sub_cancel ..

/-- A step whose fetch faults (R131). -/
theorem step_of_fetchFault {s : State} {f : Fault} (h : fetchWord s = .error f) :
    step s = .next { beginStep s with result := some (.fault f s.pc none), faultMark := true } := by
  simp only [step, fetchWord_beginStep, h, raiseAtFetch, beginStep_pc]

/-- A step that fetches an Unknown word (R113). -/
theorem step_of_unknown {s : State} {op : Word} (hfetch : fetchWord s = .ok op) (hdecode : decodeWord op = none) :
    step s = .next { (beginStep s).advance with result := some (.cond .unknownOpcode s.pc op) } := by
  simp only [step, fetchWord_beginStep, hfetch, hdecode, reportUnknown, report, State.advance_pc0, beginStep_pc]

/-- A step ends with the fetch's fault, with the report of an Unknown word, or as the fetched instruction does
(R130). -/
theorem step_cases (s : State) :
    (∃ f, fetchWord s = .error f ∧
      step s = .next { beginStep s with result := some (.fault f s.pc none), faultMark := true }) ∨
    (∃ op, fetchWord s = .ok op ∧ decodeWord op = none ∧
      step s = .next { (beginStep s).advance with result := some (.cond .unknownOpcode s.pc op) }) ∨
    (∃ i, fetchWord s = .ok (encode i) ∧ decodeWord (encode i) = some i ∧
      step s = exec i (beginStep s).advance) := by
  cases hf : fetchWord s with
  | error f => exact .inl ⟨f, rfl, step_of_fetchFault hf⟩
  | ok op =>
    cases hd : decodeWord op with
    | none => exact .inr (.inl ⟨op, rfl, hd, step_of_unknown hf hd⟩)
    | some i =>
      obtain ⟨-, rfl⟩ := encodeOfDecode op i hd
      exact .inr (.inr ⟨i, rfl, hd, step_of_fetch hf hd⟩)

theorem exec_answers (i : Instr) (s : State) : ∃ t r, exec i s = .next t ∧ t.result = some r := by
  rcases exec_cases i s with ⟨u, -, he⟩ | ⟨f, -, he⟩ | ⟨nnn, -, he⟩ <;> exact ⟨_, _, he, rfl⟩

/-- Settles O7: each end of a step is a next state with the result written, the fetched instruction's too. -/
theorem stepAlwaysAnswers : Obligations.StepAlwaysAnswers := by
  intro s
  rcases step_cases s with ⟨f, -, hs⟩ | ⟨op, -, -, hs⟩ | ⟨i, -, -, hs⟩
  · exact ⟨_, _, hs, rfl⟩
  · exact ⟨_, _, hs, rfl⟩
  · rw [hs]
    exact exec_answers i _

/-! ### Frames -/

/-- A mapped result that succeeds comes from one that succeeds. -/
theorem Except.map_eq_ok {α β ε : Type} {f : α → β} {r : Except ε α} {b : β} (h : r.map f = .ok b) :
    ∃ a, r = .ok a ∧ f a = b := by
  cases r with
  | error e => cases h
  | ok a => cases h; exact ⟨a, rfl, rfl⟩

/-- A mapped result fails as the result it comes from. -/
theorem Except.map_eq_error {α β ε : Type} {f : α → β} {r : Except ε α} {e : ε} (h : r.map f = .error e) :
    r = .error e := by
  cases r with
  | error e => cases h; rfl
  | ok a => cases h

section Frame
variable {i : Instr} {s t u : State}

/-- A checked write touches memory alone (R78). -/
theorem onlyChanges_memWrite {a : Nat} {bs : List Byte} (h : s.memWrite a bs = .ok t) : onlyChanges [.mem] s t := by
  rcases s.memWrite_cases a bs with ⟨-, e⟩ | ⟨-, e⟩ <;> cases e.symm.trans h
  exact onlyChanges_mem s _

theorem onlyChanges_v_i (s : State) (v : Vector Byte 16) (w : Word) :
    onlyChanges [.v, .i] s { s with v := v, i := w } :=
  (onlyChanges_v s v).append (onlyChanges_i _ w)

theorem onlyChanges_wait (s : State) (w : Wait) : onlyChanges [.wait] s { s with wait := w } := by
  intro p hp
  cases p
  case wait => simp at hp
  case mem => exact fun _ => rfl
  all_goals rfl

theorem onlyChanges_draws (s : State) (n : Nat) : onlyChanges [.draws] s { s with draws := n } := by
  intro p hp
  cases p
  case draws => simp at hp
  case mem => exact fun _ => rfl
  all_goals rfl

theorem onlyChanges_takeKey (s : State) (x : Reg) (k : Option Nat) :
    onlyChanges [.v, .pc, .wait] s (s.takeKey x k) := by
  cases k with
  | some k => exact ((onlyChanges_v s _).append (onlyChanges_wait _ _)).mono (by simp)
  | none => exact ((onlyChanges_pc s _).append (onlyChanges_wait _ _)).mono (by simp)

theorem onlyChanges_drawRows (s : State) (x y : Reg) (rows : List Byte) :
    onlyChanges [.v, .fb, .redraw] s (s.drawRows x y rows) :=
  (onlyChanges_v s _).append (onlyChanges_fb_redraw _ _ _)

/-- An instruction's effect writes the pieces listed for it and no other. -/
theorem onlyChanges_effect (h : effect i s = .ok u) : onlyChanges (mayWrite i) s u := by
  cases i with
  | op00E0 => cases h; exact onlyChanges_fb_redraw s _ _
  | op00EE =>
    obtain ⟨p, hp, rfl⟩ := Except.map_eq_ok h
    rcases s.pop_cases with ⟨w, ws, -, e⟩ | ⟨-, e⟩ <;> cases e.symm.trans hp
    exact (onlyChanges_stack_pc s ws w).mono (by simp [mayWrite])
  | op0NNN => cases h; exact .refl s _
  | op2NNN nnn =>
    obtain ⟨t, ht, rfl⟩ := Except.map_eq_ok h
    rcases s.push_cases s.pc with ⟨-, e⟩ | ⟨-, e⟩ <;> cases e.symm.trans ht
    exact (onlyChanges_stack_pc s _ _).mono (by simp [mayWrite])
  | op1NNN | op3XNN | op4XNN | op5XY0 | op9XY0 | opBNNN => cases h; exact onlyChanges_pc s _
  | opEX9E | opEXA1 => obtain ⟨b, -, rfl⟩ := Except.map_eq_ok h; exact onlyChanges_pc s _
  | op6XNN | op7XNN | op8XY0 | op8XY1 | op8XY2 | op8XY3 | op8XY4 | op8XY5 | op8XY6 | op8XY7 | op8XYE | opFX07 =>
    cases h; exact onlyChanges_v s _
  | opANNN | opFX29 => cases h; exact onlyChanges_i s _
  | opCXNN => cases h; exact ((onlyChanges_draws s _).append (onlyChanges_v _ _)).mono (by simp [mayWrite])
  | opDXYN => obtain ⟨rows, -, rfl⟩ := Except.map_eq_ok h; exact onlyChanges_drawRows s _ _ rows
  | opFX0A => cases h; exact onlyChanges_takeKey s _ _
  | opFX15 => cases h; exact (onlyChanges_dt_st s _ s.st).mono (qs := [.st, .dt]) (by simp) |>.of_cons rfl
  | opFX18 => cases h; exact (onlyChanges_dt_st s s.dt _).of_cons rfl
  | opFX1E => cases h; exact onlyChanges_v_i s _ _
  | opFX33 => exact onlyChanges_memWrite h
  | opFX55 =>
    obtain ⟨t, ht, rfl⟩ := Except.map_eq_ok h
    exact (onlyChanges_memWrite ht).append (onlyChanges_i t _)
  | opFX65 => obtain ⟨bs, -, rfl⟩ := Except.map_eq_ok h; exact onlyChanges_v_i s _ _

/-- Settles O48: an instruction writes its effect's frame, or nothing, and then its result and the mark. -/
theorem everyInstructionKeepsItsFrame : Obligations.EveryInstructionKeepsItsFrame := by
  intro i s t h
  obtain ⟨u, r, m, hu, rfl⟩ := exec_writes h
  have hsu : onlyChanges (mayWrite i) s u := by
    rcases hu with hu | rfl
    · exact onlyChanges_effect hu
    · exact .refl u _
  exact (hsu.append (onlyChanges_faultMark_result u m r)).mono
    (List.append_subset.2 ⟨fun p hp => by simp [hp], by simp⟩)

end Frame

end Sys2Proof.Machine
end

section
/-! PROOFS. What every step keeps: the shape of the state and the bound on PC (R9, R39, R131, R154), along sessions too,
and that what no instruction reads influences nothing (R42, R47, R49). -/

namespace Sys2Proof.Machine

variable {i : Instr} {s t u : State}

/-! ### Which instructions may write a piece -/

theorem cfg_notMem_mayWrite (i : Instr) : Piece.cfg ∉ mayWrite i := by cases i <;> simp [mayWrite]

theorem faultMark_notMem_mayWrite (i : Instr) : Piece.faultMark ∉ mayWrite i := by cases i <;> simp [mayWrite]

theorem loadOpen_notMem_mayWrite (i : Instr) : Piece.loadOpen ∉ mayWrite i := by cases i <;> simp [mayWrite]

theorem stack_mem_mayWrite (h : Piece.stack ∈ mayWrite i) : i = .op00EE ∨ ∃ nnn, i = .op2NNN nnn := by
  cases i <;> simp [mayWrite] at h ⊢

theorem dt_mem_mayWrite (h : Piece.dt ∈ mayWrite i) : ∃ x, i = .opFX15 x := by
  cases i <;> simp [mayWrite] at h ⊢

theorem st_mem_mayWrite (h : Piece.st ∈ mayWrite i) : ∃ x, i = .opFX18 x := by
  cases i <;> simp [mayWrite] at h ⊢

theorem redraw_mem_mayWrite (h : Piece.redraw ∈ mayWrite i) : i = .op00E0 ∨ ∃ x y n, i = .opDXYN x y n := by
  cases i <;> simp [mayWrite] at h ⊢

/-! ### The stack, memory and PC after an effect -/

/-- The stack is as before, loses the entry that PC takes, or takes PC where there is room (R150, R153). -/
theorem effect_stack (h : effect i s = .ok u) :
    u.stack = s.stack ∨ s.stack = u.pc :: u.stack ∨ s.stack.length < stackDepth ∧ u.stack = s.pc :: s.stack := by
  by_cases hmem : Piece.stack ∈ mayWrite i
  · rcases stack_mem_mayWrite hmem with rfl | ⟨nnn, rfl⟩
    · obtain ⟨p, hp, rfl⟩ := Except.map_eq_ok h
      rcases s.pop_cases with ⟨w, ws, hs, e⟩ | ⟨-, e⟩ <;> cases e.symm.trans hp
      exact .inr (.inl hs)
    · obtain ⟨t, ht, rfl⟩ := Except.map_eq_ok h
      rcases s.push_cases s.pc with ⟨hlt, e⟩ | ⟨-, e⟩ <;> cases e.symm.trans ht
      exact .inr (.inr ⟨hlt, rfl⟩)
  · exact .inl (onlyChanges_effect h .stack hmem)

theorem memWrite_wf {a : Nat} {bs : List Byte} (hwf : Memory.wf s.cfg s.mem) (h : s.memWrite a bs = .ok t) :
    Memory.wf t.cfg t.mem := by
  rcases s.memWrite_cases a bs with ⟨hbound, e⟩ | ⟨-, e⟩ <;> cases e.symm.trans h
  rcases hbound with hnil | hbound
  · rw [List.length_eq_zero_iff.1 hnil]
    exact hwf
  · exact Memory.writeBytes_wf hwf hbound

/-- Only FX33 and FX55 write memory, by a checked write (R76). -/
theorem effect_wf (hwf : Memory.wf s.cfg s.mem) (h : effect i s = .ok u) : Memory.wf u.cfg u.mem := by
  cases i with
  | opFX33 => exact memWrite_wf hwf h
  | opFX55 =>
    obtain ⟨t, ht, rfl⟩ := Except.map_eq_ok h
    exact memWrite_wf (t := t) hwf ht
  | op00EE =>
    obtain ⟨p, hp, rfl⟩ := Except.map_eq_ok h
    rcases s.pop_cases with ⟨w, ws, hs, e⟩ | ⟨-, e⟩ <;> cases e.symm.trans hp
    exact hwf
  | op2NNN =>
    obtain ⟨t, ht, rfl⟩ := Except.map_eq_ok h
    rcases s.push_cases s.pc with ⟨-, e⟩ | ⟨-, e⟩ <;> cases e.symm.trans ht
    exact hwf
  | opDXYN | opEX9E | opEXA1 | opFX65 =>
    obtain ⟨a, -, rfl⟩ := Except.map_eq_ok h
    exact hwf
  | opFX0A =>
    cases h
    cases hk : s.lowestKey <;> exact hwf
  | _ => cases h; exact hwf

/-- An effect from a PC after a fetch leaves PC at most where BNNN can jump (R131, R154). -/
theorem effect_pc_le (hlo : 2 ≤ s.pc.toNat) (hhi : s.pc.toNat ≤ 0x1000) (hstack : ∀ w ∈ s.stack, w.toNat ≤ 0x1000)
    (h : effect i s = .ok u) : u.pc.toNat ≤ 0x10FE := by
  have hskip (b : Bool) : (s.skipIf b).pc.toNat ≤ 0x10FE := by
    rw [State.skipIf_pc]
    split <;> bv_omega
  have haddr (nnn : Addr12) : (addrNNN nnn).toNat ≤ 0x10FE := by
    rw [addrNNN_toNat]
    omega
  cases i with
  | op00EE =>
    obtain ⟨p, hp, rfl⟩ := Except.map_eq_ok h
    rcases s.pop_cases with ⟨w, ws, hs, e⟩ | ⟨-, e⟩ <;> cases e.symm.trans hp
    exact (hstack w (by simp [hs])).trans (by decide)
  | op1NNN nnn => cases h; exact haddr nnn
  | op2NNN nnn => obtain ⟨t, -, rfl⟩ := Except.map_eq_ok h; exact haddr nnn
  | op3XNN | op4XNN | op5XY0 | op9XY0 => cases h; exact hskip _
  | opEX9E | opEXA1 => obtain ⟨b, -, rfl⟩ := Except.map_eq_ok h; exact hskip _
  | opBNNN nnn =>
    cases h
    rw [State.jump_pc, State.addrNNNPlusV0, BitVec.toNat_ofNat]
    omega
  | opFX0A =>
    cases h
    cases s.lowestKey with
    | some k => exact hhi.trans (by decide)
    | none => rw [State.takeKey, State.rewind_pc]; bv_omega
  | _ =>
    have hpc : u.pc = s.pc := onlyChanges_effect h .pc (by simp [mayWrite])
    rw [hpc]
    omega

/-! ### The shape of the state -/

theorem effect_inv (hs : s.Inv) (h : effect i s = .ok u) : u.Inv := by
  obtain ⟨hwf, hlen, hcfg⟩ := hs
  have hcfgu : u.cfg = s.cfg := onlyChanges_effect h .cfg (cfg_notMem_mayWrite i)
  refine ⟨effect_wf hwf h, ?_, hcfgu ▸ hcfg⟩
  rcases effect_stack h with e | e | ⟨hlt, e⟩
  · rw [e]
    exact hlen
  · rw [e] at hlen
    exact (Nat.le_succ _).trans hlen
  · rw [e]
    exact hlt

theorem exec_inv (hs : s.Inv) (h : exec i s = .next t) : t.Inv := by
  obtain ⟨u, r, m, hu, rfl⟩ := exec_writes h
  have hu : u.Inv := by
    rcases hu with hu | rfl
    · exact effect_inv hs hu
    · exact hs
  exact hu

theorem beginStep_inv (hs : s.Inv) : (beginStep s).Inv := by
  simpa [State.Inv] using hs

/-- Settles O52: memory is written by checked writes alone, the stack grows by checked pushes alone, and the parameters
stay. -/
theorem stepKeepsInvariant : Obligations.StepKeepsInvariant := by
  intro s t hs h
  have hbegin := beginStep_inv hs
  rcases step_cases s with ⟨f, -, e⟩ | ⟨op, -, -, e⟩ | ⟨i, -, -, e⟩
  · cases e.symm.trans h
    exact hbegin
  · cases e.symm.trans h
    exact hbegin
  · exact exec_inv (s := (beginStep s).advance) hbegin (e.symm.trans h)

/-- What every call keeps holds after a session. -/
theorem runCalls_induction {P : State → Prop} (hcall : ∀ s c t, P s → runCall s c = .next t → P t)
    (cs : List PortCall) (hs : P s) : P (runCalls s cs) := by
  induction cs generalizing s with
  | nil => exact hs
  | cons c cs ih =>
    rw [runCalls]
    split
    case h_1 t ht => exact ih (hcall s c t hs ht)
    case h_2 | h_3 => exact ih hs

theorem resetWith_inv {c : Config} (hc : c.valid) : (State.resetWith c).Inv :=
  ⟨resetWith_mem_wf c, Nat.zero_le _, hc⟩

/-- What `load` answers with a code other than Ok and no change, or with Ok and the ROM in memory (R292, R293). -/
theorem portLoad_cases {rom : Option (List Byte)} {p : Code × State} (h : portLoad rom s = .next p) :
    (p.1 ≠ .ok ∧ p.2 = s) ∨ ∃ bs, bs.length ≤ romMax ∧ p = (.ok, s.withRom bs) := by
  cases hopen : s.loadOpen with
  | false => simp [portLoad, hopen] at h
  | true =>
    cases rom with
    | none =>
      cases (portLoad_none hopen).symm.trans h
      exact .inl ⟨by simp, rfl⟩
    | some bs =>
      by_cases hlen : bs.length ≤ romMax
      · cases (portLoad_of_le hopen hlen).symm.trans h
        exact .inr ⟨bs, hlen, rfl⟩
      · cases (portLoad_of_gt hopen (by omega)).symm.trans h
        exact .inl ⟨by simp, rfl⟩

/-- The state after an accepted load. -/
theorem runCall_load_eq_next {rom : Option (List Byte)} (h : runCall s (.load rom) = .next t) :
    t = s ∨ ∃ bs, bs.length ≤ romMax ∧ t = s.withRom bs := by
  rw [runCall] at h
  cases hp : portLoad rom s with
  | next p =>
    rw [hp] at h
    cases h
    rcases portLoad_cases hp with ⟨-, e⟩ | ⟨bs, hlen, rfl⟩
    · exact .inl e
    · exact .inr ⟨bs, hlen, rfl⟩
  | fault f | refused r => rw [hp] at h; cases h

theorem portTick_eq_next (h : portTick s = .next t) : t = s.tick := by
  unfold portTick at h
  split at h <;> cases h
  rfl

theorem portSetKey_eq_next {k : Nat} {b : Bool} (h : portSetKey k b s = .next t) :
    ∃ hk : k < 16, t = { s with key := s.key.set k b } := by
  unfold portSetKey at h
  split at h <;> cases h
  exact ⟨‹_›, rfl⟩

theorem runCall_inv (s : State) (c : PortCall) (t : State) (hs : s.Inv) (h : runCall s c = .next t) : t.Inv := by
  cases c with
  | step => exact stepKeepsInvariant s t hs h
  | tick => cases portTick_eq_next h; exact hs
  | setKey k b => obtain ⟨_, rfl⟩ := portSetKey_eq_next h; exact hs
  | ackFrame => cases h; exact hs
  | reset => cases h; exact resetWith_inv hs.2.2
  | load rom =>
    rcases runCall_load_eq_next h with rfl | ⟨bs, hlen, rfl⟩
    · exact hs
    · exact ⟨Memory.writeBytes_wf hs.1 (progBase_add_length_le hlen), hs.2⟩

/-- Settles O53: each kind of call keeps the invariant. -/
theorem sessionKeepsInvariant : Obligations.SessionKeepsInvariant :=
  fun cs _ hs => runCalls_induction runCall_inv cs hs

/-! ### The bound on PC -/

theorem effect_pcInv (hlo : 2 ≤ s.pc.toNat) (hhi : s.pc.toNat ≤ 0x1000) (hstack : ∀ w ∈ s.stack, w.toNat ≤ 0x1000)
    (h : effect i s = .ok u) : u.PcInv := by
  refine ⟨effect_pc_le hlo hhi hstack h, fun w hw => ?_⟩
  rcases effect_stack h with e | e | ⟨-, e⟩
  · exact hstack w (e ▸ hw)
  · exact hstack w (e ▸ List.mem_cons_of_mem _ hw)
  · rcases List.mem_cons.1 (e ▸ hw) with rfl | hw
    · exact hhi
    · exact hstack w hw

theorem exec_pcInv (hlo : 2 ≤ s.pc.toNat) (hhi : s.pc.toNat ≤ 0x1000) (hstack : ∀ w ∈ s.stack, w.toNat ≤ 0x1000)
    (h : exec i s = .next t) : t.PcInv := by
  obtain ⟨u, r, m, hu, rfl⟩ := exec_writes h
  have hu : u.PcInv := by
    rcases hu with hu | rfl
    · exact effect_pcInv hlo hhi hstack hu
    · exact ⟨hhi.trans (by decide), hstack⟩
  exact hu

/-- Settles O54: the fetch bounds the PC an instruction begins with, and from there no jump, skip, return or rewind
passes BNNN's largest target. -/
theorem stepKeepsPcBound : Obligations.StepKeepsPcBound := by
  rintro s t ⟨hpc, hstack⟩ h
  have hstack' : ∀ w ∈ (beginStep s).stack, w.toNat ≤ 0x1000 := by simpa using hstack
  rcases fetchWord_cases s with ⟨hbound, hf⟩ | ⟨-, hf⟩
  · have hadv : (beginStep s).advance.pc.toNat = s.pc.toNat + 2 := by
      rw [memSize] at hbound
      simp only [State.advance_pc, beginStep_pc]
      bv_omega
    rw [memSize] at hbound
    rcases step_cases s with ⟨f, e, -⟩ | ⟨op, -, -, e⟩ | ⟨i, -, -, e⟩
    · cases e.symm.trans hf
    · cases e.symm.trans h
      exact ⟨hadv.trans_le (by omega), hstack'⟩
    · exact exec_pcInv (s := (beginStep s).advance) (by omega) (by omega) hstack' (e.symm.trans h)
  · cases (step_of_fetchFault hf).symm.trans h
    exact ⟨by simpa using hpc, hstack'⟩

theorem resetWith_pcInv (c : Config) : (State.resetWith c).PcInv :=
  ⟨show 0x200 ≤ 0x10FE by decide, fun _ h => nomatch h⟩

/-- Settles O55: memory lists nothing, the stack is empty and PC is 0x200. -/
theorem resetHasInvariants : Obligations.ResetHasInvariants :=
  ⟨resetWith_inv (by decide), resetWith_pcInv _, fun c hc => ⟨resetWith_inv hc, resetWith_pcInv c⟩⟩

end Sys2Proof.Machine
end

section
/-! PROOFS. What no instruction reads (ST, REDRAW, WAIT and the model's result, mark and `loadOpen`) influences nothing
else (R42, R47, R49). -/

namespace Sys2Proof.Machine

variable {i : Instr} {s s' t u u' : State}

theorem State.agreesOnRead.exists_eq (h : s.agreesOnRead s') :
    ∃ st redraw wait result mark isOpen, s' = { s with
      st := st, redraw := redraw, wait := wait, result := result, faultMark := mark, loadOpen := isOpen } :=
  ⟨_, _, _, _, _, _, h⟩

/-- Two effects that are the same but for what no instruction reads: the same fault, or states that agree. -/
def sameOnRead : Except Fault State → Except Fault State → Prop
  | .ok u, .ok u' => u.agreesOnRead u'
  | .error f, .error f' => f = f'
  | .ok _, .error _ => False
  | .error _, .ok _ => False

theorem sameOnRead_map {α : Type} (r : Except Fault α) {f f' : α → State} (h : ∀ a, (f a).agreesOnRead (f' a)) :
    sameOnRead (r.map f) (r.map f') := by
  cases r with
  | ok a => exact h a
  | error e => rfl

theorem sameOnRead.setI {r r' : Except Fault State} (h : sameOnRead r r') (w : Word) :
    sameOnRead (r.map fun u => { u with i := w }) (r'.map fun u => { u with i := w }) := by
  cases r <;> cases r'
  case ok.ok u u' =>
    obtain ⟨_, _, _, _, _, _, rfl⟩ := State.agreesOnRead.exists_eq h
    rfl
  all_goals exact h

theorem sameOnRead_memWrite (h : s.agreesOnRead s') (a : Nat) (bs : List Byte) :
    sameOnRead (s.memWrite a bs) (s'.memWrite a bs) := by
  obtain ⟨_, _, _, _, _, _, rfl⟩ := h.exists_eq
  rw [State.memWrite, State.memWrite]
  split <;> rfl

/-- Each instruction's effect reads only what the two states share. -/
theorem effect_sameOnRead (h : s.agreesOnRead s') : sameOnRead (effect i s) (effect i s') := by
  obtain ⟨_, _, _, _, _, _, rfl⟩ := h.exists_eq
  cases i with
  | op00EE =>
    simp only [effect, State.pop]
    cases s.stack <;> rfl
  | op2NNN =>
    simp only [effect, State.push]
    split <;> rfl
  | opDXYN | opEX9E | opEXA1 | opFX65 => exact sameOnRead_map _ fun _ => rfl
  | opFX0A x =>
    show State.agreesOnRead (s.takeKey x s.lowestKey) (State.takeKey _ x s.lowestKey)
    cases s.lowestKey <;> rfl
  | opFX33 x => exact sameOnRead_memWrite h s.addrI (digits (s.getV x))
  | opFX55 x => exact (sameOnRead_memWrite h s.addrI (s.blockV (blockSize x))).setI (s.iPastBlock x)
  | _ => rfl

/-! The two states through a step. -/

theorem State.agreesOnRead.withResult (h : u.agreesOnRead u') (r : Option StepResult) (m m' : Bool) :
    State.agreesOnRead { u with result := r, faultMark := m } { u' with result := r, faultMark := m' } := by
  obtain ⟨_, _, _, _, _, _, rfl⟩ := h.exists_eq
  rfl

theorem State.agreesOnRead.beginStep (h : s.agreesOnRead s') : (beginStep s).agreesOnRead (beginStep s') := by
  obtain ⟨_, _, _, _, _, _, rfl⟩ := h.exists_eq
  rw [Machine.beginStep, Machine.beginStep]
  cases s.cfg.timerMode <;> rfl

theorem State.agreesOnRead.advance (h : s.agreesOnRead s') : s.advance.agreesOnRead s'.advance := by
  obtain ⟨_, _, _, _, _, _, rfl⟩ := h.exists_eq
  rfl

theorem State.agreesOnRead.pc (h : s.agreesOnRead s') : s'.pc = s.pc := by
  obtain ⟨_, _, _, _, _, _, rfl⟩ := h.exists_eq
  rfl

theorem State.agreesOnRead.fetchWord (h : s.agreesOnRead s') : fetchWord s' = fetchWord s := by
  obtain ⟨_, _, _, _, _, _, rfl⟩ := h.exists_eq
  rfl

/-- Two answers that are the same but for what no instruction reads. -/
def sameAnswer (a a' : Answer) : Prop :=
  ∃ t t', a = .next t ∧ a' = .next t' ∧ t.agreesOnRead t' ∧ t'.result = t.result

theorem sameAnswer_of_result (h : u.agreesOnRead u') (r : Option StepResult) (m m' : Bool) :
    sameAnswer (.next { u with result := r, faultMark := m }) (.next { u' with result := r, faultMark := m' }) :=
  ⟨_, _, rfl, rfl, h.withResult r m m', rfl⟩

theorem exec_sameAnswer (i : Instr) (h : s.agreesOnRead s') : sameAnswer (exec i s) (exec i s') := by
  have hpc0 : s'.pc0 = s.pc0 := congrArg (· - 2) h.pc
  by_cases hi : ∃ nnn, i = .op0NNN nnn
  · obtain ⟨nnn, rfl⟩ := hi
    simp only [exec, exec0NNN, report, hpc0]
    exact sameAnswer_of_result h _ _ _
  · rw [exec_eq_finish fun nnn e => hi ⟨nnn, e⟩, exec_eq_finish fun nnn e => hi ⟨nnn, e⟩]
    have heffect := effect_sameOnRead (i := i) h
    match hu : effect i s, hu' : effect i s' with
    | .ok u, .ok u' =>
      rw [hu, hu'] at heffect
      exact sameAnswer_of_result heffect _ _ _
    | .error f, .error f' =>
      rw [hu, hu'] at heffect
      cases heffect
      simp only [finish, raise, hpc0]
      exact sameAnswer_of_result h _ _ _
    | .ok _, .error _ | .error _, .ok _ =>
      rw [hu, hu'] at heffect
      exact heffect.elim

theorem step_sameAnswer (h : s.agreesOnRead s') : sameAnswer (step s) (step s') := by
  rcases step_cases s with ⟨f, hf, e⟩ | ⟨op, hf, hd, e⟩ | ⟨i, hf, hd, e⟩ <;> rw [← h.fetchWord] at hf
  · rw [e, step_of_fetchFault hf, h.pc]
    exact sameAnswer_of_result h.beginStep _ _ _
  · rw [e, step_of_unknown hf hd, h.pc]
    exact sameAnswer_of_result h.beginStep.advance _ _ _
  · rw [e, step_of_fetch hf hd]
    exact exec_sameAnswer i h.beginStep.advance

/-- Settles O51: the fetch and each instruction's effect read only what the two states share. -/
theorem unreadStateHasNoInfluence : Obligations.UnreadStateHasNoInfluence := by
  intro s s' t h hst
  obtain ⟨u, t', hu, ht', hagree, hresult⟩ := step_sameAnswer h
  cases hu.symm.trans hst
  exact ⟨t', ht', hagree, hresult⟩

end Sys2Proof.Machine
end

section
/-! PROOFS. The complete step (R130): the instruction it runs, an Unknown word (R113), the fetch's fault (R131), where
instructions fault (R263) and what a faulting one leaves (R137, R268). -/

namespace Sys2Proof.Machine

variable {i : Instr} {s t u : State}

/-! ### The start of a step -/

/-- The delay timer as a step's start leaves it (R141, R251). -/
theorem beginStep_dt_toNat (s : State) :
    (beginStep s).dt.toNat = if s.cfg.timerMode = .perStep then s.dt.toNat - 1 else s.dt.toNat := by
  rw [beginStep_dt, apply_ite BitVec.toNat, countDown_toNat]

/-- The sound timer as a step's start leaves it (R141, R251). -/
theorem beginStep_st_toNat (s : State) :
    (beginStep s).st.toNat = if s.cfg.timerMode = .perStep then s.st.toNat - 1 else s.st.toNat := by
  rw [beginStep_st, apply_ite BitVec.toNat, countDown_toNat]

/-- The start of a step and the fetch's advance (R130, R132). -/
theorem onlyChanges_advance (s : State) : onlyChanges [.pc, .dt, .st, .loadOpen] s (beginStep s).advance :=
  ((onlyChanges_beginStep s).append (onlyChanges_pc _ _)).mono (by simp)

/-- The bytes at PC are what the fetch reads (R74, R131). -/
theorem fetchWord_of_le (h : s.pc.toNat + 1 ≤ 0xFFF) :
    fetchWord s = .ok (combine (s.byteAt s.pc.toNat) (s.byteAt (s.pc.toNat + 1))) := by
  rcases fetchWord_cases s with ⟨-, e⟩ | ⟨hgt, -⟩
  · exact e
  · exact absurd hgt (by rw [memSize]; omega)

theorem decodeWord_of_decode {hi lo : Byte} {rest : List Byte} (h : decode [hi, lo] = .instr i rest) :
    decodeWord (combine hi lo) = some i := by
  cases hd : decodeWord (combine hi lo) <;> simp_all [decode]

/-- Settles O6: the bytes at PC are the fetched word, and `exec` runs after the start of the step and the advance. -/
theorem stepRunsTheDecodedInstruction : Obligations.StepRunsTheDecodedInstruction := by
  intro s i rest hpc hdecode
  exact ⟨(beginStep s).advance, step_of_fetch (fetchWord_of_le hpc) (decodeWord_of_decode hdecode),
    by rw [State.advance_pc, beginStep_pc], beginStep_dt_toNat s, beginStep_st_toNat s, onlyChanges_advance s⟩

/-- Settles O8: the report writes the result alone. -/
theorem unknownWordReportsAndAdvances : Obligations.UnknownWordReportsAndAdvances := by
  intro s op hfetch hdecode
  refine ⟨_, step_of_unknown hfetch hdecode, rfl, ?_, rfl, rfl, ?_⟩
  · exact congrArg (· + 2) (beginStep_pc s)
  · exact (onlyChanges_advance s).append (onlyChanges_result _ _)

/-! ### The fetch's fault -/

/-- The index of a fetch fault is the lowest address above 0xFFF (R131, R262). -/
theorem fetchWord_of_gt (h : s.pc.toNat + 1 > 0xFFF) :
    fetchWord s = .error (.outOfBoundsAccess .fetch
      (if s.pc.toNat > 0xFFF then s.pc.toNat else s.pc.toNat + 1)) := by
  rcases fetchWord_cases s with ⟨hle, -⟩ | ⟨-, e⟩
  · exact absurd hle (by rw [memSize]; omega)
  · rw [e, memSize]
    congr 2
    split <;> omega

/-- A step whose fetch faults (R131, R137). -/
theorem step_of_pc_gt (h : s.pc.toNat + 1 > 0xFFF) :
    ∃ t, step s = .next t ∧
      t.result = some (.fault (.outOfBoundsAccess .fetch (if s.pc.toNat > 0xFFF then s.pc.toNat else s.pc.toNat + 1))
        s.pc none) ∧
      t.faultMark = true ∧
      t.dt.toNat = (if s.cfg.timerMode = .perStep then s.dt.toNat - 1 else s.dt.toNat) ∧
      onlyChanges [.dt, .st, .loadOpen, .result, .faultMark] s t :=
  ⟨_, step_of_fetchFault (fetchWord_of_gt h), rfl, rfl, beginStep_dt_toNat s,
    ((onlyChanges_beginStep s).append (onlyChanges_faultMark_result _ _ _)).mono (by simp)⟩

/-- Settles O9, by induction on the number of steps: a step whose fetch faults leaves PC, so the next one's fetch
faults too. -/
theorem fetchFaultRepeats : Obligations.FetchFaultRepeats := by
  intro s n hpc
  induction n generalizing s with
  | zero =>
    obtain ⟨t, hstep, h⟩ := step_of_pc_gt hpc
    rw [runSteps_succ 0 hstep]
    exact h
  | succ n ih =>
    obtain ⟨t, hstep, -, -, hdt, hframe⟩ := step_of_pc_gt hpc
    have hpct : t.pc = s.pc := hframe .pc (by simp)
    have hcfg : t.cfg = s.cfg := hframe .cfg (by simp)
    obtain ⟨hresult, hmark, hdtn, hframen⟩ := ih t (hpct ▸ hpc)
    rw [runSteps_succ (n + 1) hstep]
    refine ⟨hpct ▸ hresult, hmark, ?_, hframe.trans hframen⟩
    rw [hdtn, hdt, hcfg]
    split
    · omega
    · rfl

/-! ### Faults of instructions -/

section Fault
variable {f : Fault}

/-- A checked read or write faults with the lowest address above 0xFFF (R14, R262). -/
theorem memRead_eq_error {a n : Nat} (h : s.memRead a n = .error f) :
    n > 0 ∧ a + n - 1 > 0xFFF ∧ f = .outOfBoundsAccess .memory (max a 0x1000) := by
  rcases s.memRead_cases a n with ⟨-, e⟩ | ⟨⟨hn, hgt⟩, e⟩ <;> cases e.symm.trans h
  rw [memSize] at hgt
  exact ⟨by omega, by omega, rfl⟩

theorem memWrite_eq_error {a : Nat} {bs : List Byte} (h : s.memWrite a bs = .error f) :
    a + bs.length - 1 > 0xFFF ∧ f = .outOfBoundsAccess .memory (max a 0x1000) := by
  rcases s.memWrite_cases a bs with ⟨-, e⟩ | ⟨⟨hn, hgt⟩, e⟩ <;> cases e.symm.trans h
  rw [memSize] at hgt
  exact ⟨by omega, rfl⟩

theorem keyAt_eq_error {k : Byte} (h : s.keyAt k = .error f) :
    k.toNat > 0x0F ∧ f = .outOfBoundsAccess .keypad k.toNat := by
  rcases s.keyAt_cases k with ⟨_, e⟩ | ⟨hgt, e⟩ <;> cases e.symm.trans h
  exact ⟨hgt, rfl⟩

/-- The table of R263, with the indices of R262. -/
theorem effect_eq_error (h : effect i s = .error f) :
    (∃ nnn, i = .op2NNN nnn ∧ 16 ≤ s.stack.length ∧ f = .stackOverflow) ∨
    (i = .op00EE ∧ s.stack = [] ∧ f = .stackUnderflow) ∨
    (∃ x y n, i = .opDXYN x y n ∧ n.toNat > 0 ∧ s.i.toNat + n.toNat - 1 > 0xFFF ∧
      f = .outOfBoundsAccess .memory (max s.i.toNat 0x1000)) ∨
    (∃ x, i = .opFX33 x ∧ s.i.toNat + 2 > 0xFFF ∧ f = .outOfBoundsAccess .memory (max s.i.toNat 0x1000)) ∨
    (∃ x, (i = .opFX55 x ∨ i = .opFX65 x) ∧ s.i.toNat + x.toNat > 0xFFF ∧
      f = .outOfBoundsAccess .memory (max s.i.toNat 0x1000)) ∨
    (∃ x, (i = .opEX9E x ∨ i = .opEXA1 x) ∧ (s.getV x).toNat > 0x0F ∧
      f = .outOfBoundsAccess .keypad (s.getV x).toNat) := by
  cases i with
  | op2NNN nnn =>
    rcases s.push_cases s.pc with ⟨-, e⟩ | ⟨hle, e⟩ <;> cases e.symm.trans (Except.map_eq_error h)
    exact .inl ⟨nnn, rfl, hle, rfl⟩
  | op00EE =>
    rcases s.pop_cases with ⟨_, _, -, e⟩ | ⟨hnil, e⟩ <;> cases e.symm.trans (Except.map_eq_error h)
    exact .inr (.inl ⟨rfl, hnil, rfl⟩)
  | opDXYN x y n => exact .inr (.inr (.inl ⟨x, y, n, rfl, memRead_eq_error (Except.map_eq_error h)⟩))
  | opFX33 x => exact .inr (.inr (.inr (.inl ⟨x, rfl, memWrite_eq_error h⟩)))
  | opFX55 x =>
    have hfault := memWrite_eq_error (Except.map_eq_error h)
    rw [s.blockV_blockSize_length] at hfault
    exact .inr (.inr (.inr (.inr (.inl ⟨x, .inl rfl, hfault⟩))))
  | opFX65 x =>
    exact .inr (.inr (.inr (.inr (.inl ⟨x, .inr rfl, (memRead_eq_error (Except.map_eq_error h)).2⟩))))
  | opEX9E x =>
    exact .inr (.inr (.inr (.inr (.inr ⟨x, .inl rfl, keyAt_eq_error (Except.map_eq_error h)⟩))))
  | opEXA1 x =>
    exact .inr (.inr (.inr (.inr (.inr ⟨x, .inr rfl, keyAt_eq_error (Except.map_eq_error h)⟩))))
  | _ => cases h

/-- An instruction whose result is a fault raised it: nothing is written but the result and the mark (R137). -/
theorem exec_eq_fault {pc0 : Word} {op : Option Word} (h : exec i s = .next t)
    (hresult : t.result = some (.fault f pc0 op)) :
    effect i s = .error f ∧ pc0 = s.pc0 ∧ op = some (encode i) ∧
      t = { s with result := some (.fault f pc0 op), faultMark := true } := by
  rcases exec_cases i s with ⟨u, -, e⟩ | ⟨g, hg, e⟩ | ⟨nnn, -, e⟩ <;> cases e.symm.trans h <;> cases hresult
  exact ⟨hg, rfl, rfl, rfl⟩

/-- Settles O12: only the effect of an instruction of the table can be a fault. -/
theorem faultsOnlyWhereListed : Obligations.FaultsOnlyWhereListed :=
  fun _ _ _ _ _ _ h hresult => effect_eq_error (exec_eq_fault h hresult).1

/-- Settles O10: a fault that carries an opcode was raised by the fetched instruction, which then writes nothing
else. -/
theorem faultingStepWritesNothing : Obligations.FaultingStepWritesNothing := by
  intro s t f pc0 op hstep hresult
  rcases step_cases s with ⟨g, -, e⟩ | ⟨w, -, -, e⟩ | ⟨i, hfetch, -, e⟩
  · cases e.symm.trans hstep
    cases hresult
  · cases e.symm.trans hstep
    cases hresult
  · obtain ⟨-, rfl, hop, rfl⟩ := exec_eq_fault (e.symm.trans hstep) hresult
    cases hop
    exact ⟨by simp, hfetch, congrArg (· + 2) (beginStep_pc s), rfl, rfl, rfl,
      ((onlyChanges_advance s).append (onlyChanges_faultMark_result _ _ _)).mono (by simp)⟩

end Fault

/-! ### The fault mark -/

theorem exec_faultMark (h : exec i s = .next t) : t.faultMark = (s.faultMark || isFault t.result) := by
  rcases exec_cases i s with ⟨u, hu, e⟩ | ⟨f, -, e⟩ | ⟨nnn, -, e⟩ <;> cases e.symm.trans h
  · have hmark : u.faultMark = s.faultMark := onlyChanges_effect hu .faultMark (faultMark_notMem_mayWrite i)
    simp [isFault, hmark]
  · simp [isFault]
  · simp [isFault]

/-- A step sets the mark exactly when it returns a fault (R268). -/
theorem step_faultMark (h : step s = .next t) : t.faultMark = (s.faultMark || isFault t.result) := by
  rcases step_cases s with ⟨f, -, e⟩ | ⟨op, -, -, e⟩ | ⟨i, -, -, e⟩
  · cases e.symm.trans h
    simp [isFault]
  · cases e.symm.trans h
    simp [isFault]
  · simpa using exec_faultMark (e.symm.trans h)

/-- No port clears the mark (R67, R268). -/
theorem runCall_keeps_faultMark (s : State) (c : PortCall) (t : State) (hs : s.faultMark = true)
    (h : runCall s c = .next t) : t.faultMark = true := by
  cases c with
  | step => rw [step_faultMark h, hs, Bool.true_or]
  | tick => cases portTick_eq_next h; exact hs
  | setKey k b => obtain ⟨_, rfl⟩ := portSetKey_eq_next h; exact hs
  | ackFrame | reset => cases h; exact hs
  | load rom => rcases runCall_load_eq_next h with rfl | ⟨bs, -, rfl⟩ <;> exact hs

/-- Settles O11: each end of a step writes the mark as its result says, and no other call touches it. -/
theorem faultMarkIsKept : Obligations.FaultMarkIsKept :=
  ⟨fun _ _ => step_faultMark, fun cs _ hs => runCalls_induction runCall_keeps_faultMark cs hs⟩

end Sys2Proof.Machine
end

section
/-! PROOFS. Timers, REDRAW and registers along a step (R34, R42, R47), and the host's ports: construction, reset, load,
keys, ticks, pixels and the results' records (R53, R60 to R65, R261, R262, R290 to R294). -/

namespace Sys2Proof.Machine

variable {i : Instr} {s t u : State}

/-! ### The timers along a step -/

/-- A step whose instruction may not write a piece, and whose end writes neither, leaves it as the step's start did. -/
theorem step_keeps_piece {p : Piece} (hp : p ∉ [Piece.pc, .result, .faultMark])
    (hi : ∀ i, fetchWord s = .ok (encode i) → p ∉ mayWrite i) (h : step s = .next t) : p.same (beginStep s) t := by
  rcases step_cases s with ⟨f, -, e⟩ | ⟨op, -, -, e⟩ | ⟨i, hfetch, -, e⟩
  · cases e.symm.trans h
    exact (onlyChanges_faultMark_result _ _ _).mono (by simp) p hp
  · cases e.symm.trans h
    exact ((onlyChanges_pc _ _).append (onlyChanges_result _ _)).mono (by simp) p hp
  · have hframe := everyInstructionKeepsItsFrame _ _ _ (e.symm.trans h)
    have hnot : p ∉ [Piece.pc] ++ (.result :: .faultMark :: mayWrite i) := by
      simpa [hi i hfetch] using hp
    exact (onlyChanges_pc _ _).append hframe p hnot

theorem step_dt (hi : ∀ x, fetchWord s ≠ .ok (encode (.opFX15 x))) (h : step s = .next t) :
    t.dt = (beginStep s).dt := by
  refine step_keeps_piece (p := .dt) (by simp) (fun i hfetch hmem => ?_) h
  obtain ⟨x, rfl⟩ := dt_mem_mayWrite hmem
  exact hi x hfetch

theorem step_st (hi : ∀ x, fetchWord s ≠ .ok (encode (.opFX18 x))) (h : step s = .next t) :
    t.st = (beginStep s).st := by
  refine step_keeps_piece (p := .st) (by simp) (fun i hfetch hmem => ?_) h
  obtain ⟨x, rfl⟩ := st_mem_mayWrite hmem
  exact hi x hfetch

/-- Settles O47: no other instruction lists the timer among the pieces it may write. -/
theorem timersAreSetOnlyByTheirInstructions : Obligations.TimersAreSetOnlyByTheirInstructions := by
  intro s t h
  exact ⟨fun hi => by rw [step_dt hi h, beginStep_dt_toNat], fun hi => by rw [step_st hi h, beginStep_st_toNat]⟩

theorem runCalls_cons_next {c : PortCall} {cs : List PortCall} (h : runCall s c = .next t) :
    runCalls s (c :: cs) = runCalls t cs := by
  rw [runCalls, h]

theorem portTick_of_external (h : s.cfg.timerMode = .externalTick) : portTick s = .next s.tick := by
  rw [portTick, h]

theorem portTick_of_perStep (h : s.cfg.timerMode = .perStep) : portTick s = .refused .noTickPort := by
  rw [portTick, h]

/-- At a program's end the step takes both timers down by one in `per_step` mode (R140, R251). -/
theorem State.AtEnd.timers_of_step (hend : s.AtEnd) (hmode : s.cfg.timerMode = .perStep) (h : step s = .next t) :
    t.dt.toNat = s.dt.toNat - 1 ∧ t.st.toNat = s.st.toNat - 1 := by
  obtain ⟨nnn, hfetch, -⟩ := hend
  have hjump {i : Instr} (hi : i.wf = true) (hfetchi : fetchWord s = .ok (encode i)) : .op1NNN nnn = i :=
    encode_inj rfl hi (Except.ok.inj (hfetch.symm.trans hfetchi))
  obtain ⟨hdt, hst⟩ := timersAreSetOnlyByTheirInstructions s t h
  exact ⟨(hdt fun _ hx => nomatch hjump rfl hx).trans (if_pos hmode),
    (hst fun _ hx => nomatch hjump rfl hx).trans (if_pos hmode)⟩

/-- Settles O46, by induction on the number of ticks, and on the number of steps at the program's end. -/
theorem timersReachZero : Obligations.TimersReachZero := by
  refine ⟨fun s n hmode => ?ticks, fun s n hmode hend => ?steps⟩
  case ticks =>
    induction n generalizing s with
    | zero => exact ⟨rfl, rfl⟩
    | succ n ih =>
      obtain ⟨hdt, hst⟩ := ih s.tick hmode
      rw [List.replicate_succ, runCalls_cons_next (c := .tick) (portTick_of_external hmode), hdt, hst]
      simp only [State.tick_dt, State.tick_st, countDown_toNat]
      omega
  case steps =>
    induction n generalizing s with
    | zero => exact ⟨rfl, rfl⟩
    | succ n ih =>
      obtain ⟨t, hstep, hendt, hframe⟩ := hend.kept_by_step
      have hcfg : t.cfg = s.cfg := hframe .cfg (by simp)
      obtain ⟨hdt1, hst1⟩ := hend.timers_of_step hmode hstep
      obtain ⟨hdt, hst⟩ := ih t (hcfg ▸ hmode) hendt
      rw [runSteps_succ n hstep, hdt, hst, hdt1, hst1]
      omega

/-! ### REDRAW -/

/-- An effect leaves REDRAW or sets it, and sets it only by 00E0 or DXYN (R47). -/
theorem effect_redraw (h : effect i s = .ok u) :
    u.redraw = s.redraw ∨ u.redraw = true ∧ (i = .op00E0 ∨ ∃ x y n, i = .opDXYN x y n) := by
  by_cases hmem : Piece.redraw ∈ mayWrite i
  · have hi := redraw_mem_mayWrite hmem
    refine .inr ⟨?_, hi⟩
    rcases hi with rfl | ⟨x, y, n, rfl⟩
    · cases h
      rfl
    · obtain ⟨rows, -, rfl⟩ := Except.map_eq_ok h
      rfl
  · exact .inl (onlyChanges_effect h .redraw hmem)

theorem step_redraw (h : step s = .next t) :
    t.redraw = s.redraw ∨
      t.redraw = true ∧ (fetchWord s = .ok 0x00E0 ∨ ∃ x y n, fetchWord s = .ok (encode (.opDXYN x y n))) := by
  rcases step_cases s with ⟨f, -, e⟩ | ⟨op, -, -, e⟩ | ⟨i, hfetch, -, e⟩
  · cases e.symm.trans h
    exact .inl (beginStep_redraw s)
  · cases e.symm.trans h
    exact .inl (beginStep_redraw s)
  · obtain ⟨u, r, m, hu, rfl⟩ := exec_writes (e.symm.trans h)
    rcases hu with hu | rfl
    · rcases effect_redraw hu with hkeep | ⟨hset, rfl | ⟨x, y, n, rfl⟩⟩
      · exact .inl (hkeep.trans (by simp))
      · exact .inr ⟨hset, .inl hfetch⟩
      · exact .inr ⟨hset, .inr ⟨x, y, n, hfetch⟩⟩
    · exact .inl (beginStep_redraw s)

/-- A call other than `ack_frame` and `reset` leaves a pending redraw pending. -/
theorem runCall_redraw {c : PortCall} (hack : c ≠ .ackFrame) (hreset : c ≠ .reset) (hs : s.redraw = true)
    (h : runCall s c = .next t) : t.redraw = true := by
  cases c with
  | step => exact (step_redraw h).elim (fun hkeep => hkeep.trans hs) And.left
  | tick => cases portTick_eq_next h; exact hs
  | setKey k b => obtain ⟨_, rfl⟩ := portSetKey_eq_next h; exact hs
  | ackFrame => exact absurd rfl hack
  | reset => exact absurd rfl hreset
  | load rom => rcases runCall_load_eq_next h with rfl | ⟨bs, -, rfl⟩ <;> exact hs

/-- Settles O50: a step leaves REDRAW or sets it, and the other ports but `ack_frame` and `reset` leave it. -/
theorem redrawIsClearedOnlyByTheHost : Obligations.RedrawIsClearedOnlyByTheHost := by
  refine ⟨fun s t c h hs ht => ?cleared, fun s t h hs ht => ?set, fun s => ?ack⟩
  case cleared =>
    by_contra hc
    obtain ⟨hack, hreset⟩ := not_or.1 hc
    exact absurd ((runCall_redraw hack hreset hs h).symm.trans ht) (by decide)
  case set =>
    rcases step_redraw h with hkeep | ⟨-, hfetch⟩
    · exact absurd (ht.symm.trans (hkeep.trans hs)) (by decide)
    · exact hfetch
  case ack =>
    exact ⟨_, rfl, rfl, (onlyChanges_fb_redraw s s.fb false).of_cons rfl⟩

/-! ### Construction, reset and load -/

/-- Settles O56: every field as `resetWith` writes it, and every byte as construction leaves it. -/
theorem resetValues : Obligations.ResetValues := by
  intro c
  refine ⟨rfl, rfl, rfl, rfl, rfl, rfl, rfl, rfl, rfl, fun r => ?regs, fun k h => ?keys, fun k h => ?glyphs,
    fun a h => ?zero⟩
  case regs => simp [State.getV, State.resetWith]
  case keys => simp [State.resetWith]
  case glyphs =>
    show initByte c (c.fontBase + k) = _
    rw [initByte, dif_pos (by omega)]
    simp
  case zero =>
    show initByte c a = 0
    rw [initByte, dif_neg (by omega)]

theorem step_loadOpen (h : step s = .next t) : t.loadOpen = false := by
  have hkeep : t.loadOpen = (beginStep s).loadOpen :=
    step_keeps_piece (p := .loadOpen) (by simp) (fun i _ => loadOpen_notMem_mayWrite i) h
  rw [hkeep, beginStep_loadOpen]

/-- Settles O58: a step's start and a successful load clear the flag that `load` asks for, and a reset sets it. -/
theorem loadIsRefusedLater : Obligations.LoadIsRefusedLater := by
  refine ⟨fun s t => step_loadOpen, fun s t rom h => ?loaded, fun s rom h => ?refused, fun s => ?reset⟩
  case loaded =>
    rcases portLoad_cases h with ⟨hne, -⟩ | ⟨bs, -, e⟩
    · exact absurd rfl hne
    · cases e
      rfl
  case refused => simp [portLoad, h]
  case reset => exact ⟨_, rfl, rfl, rfl⟩

/-! ### Keys, ticks and pixels -/

theorem onlyChanges_key (s : State) (k : Vector Bool 16) : onlyChanges [.key] s { s with key := k } := by
  intro p hp
  cases p
  case key => simp at hp
  case mem => exact fun _ => rfl
  all_goals rfl

theorem portSetKey_of_lt {k : Nat} (h : k < 16) (b : Bool) (s : State) :
    portSetKey k b s = .next { s with key := s.key.set k b } := dif_pos h

/-- Settles O59: each port by its one condition. -/
theorem hostPortsDoOneThing : Obligations.HostPortsDoOneThing := by
  refine ⟨fun s k b h => ?setKey, fun s k b h => dif_neg (by omega), fun s => portTick_of_external,
    fun s => portTick_of_perStep, fun s x y hx hy => if_pos ⟨hx, hy⟩, fun s x y h => if_neg ?outside⟩
  case setKey =>
    refine ⟨_, portSetKey_of_lt h b s, fun q hq => ?_, onlyChanges_key s _⟩
    simp [Vector.getElem_set, eq_comm]
  case outside =>
    rw [dispW, dispH]
    omega

/-- Settles O60: each result and each fault has one record. -/
theorem resultRecords : Obligations.ResultRecords := by
  refine ⟨rfl, fun _ _ => ⟨rfl, rfl⟩, fun _ _ _ => ⟨_, rfl, rfl, rfl, rfl, rfl⟩, fun f _ _ => ⟨_, rfl, rfl, rfl, ?_⟩⟩
  cases f <;> simp [faultCode, codeNumber, faultSpace, faultAddr]

end Sys2Proof.Machine
end

section
/-! PROOFS. What instructions leave in the registers: arithmetic with its flag (R176 to R180), the table of operands
that are VF (R183), CXNN (R181), FX1E, FX29 and FX65 (R201, R202, R205), and the last column of R34. -/

namespace Sys2Proof.Machine

variable {i : Instr} {s t u : State} {x : Reg} {b flag : Byte}

/-! ### Arithmetic and its flag -/

/-- An instruction that writes VF and then VX, where VX stands also for X = F (R182). -/
theorem completes_flagThenSet (hexec : exec i s = complete (s.flagThenSet x b flag)) :
    completes i s [.v] fun t => ∀ r, t.getV r = if r = x then b else if r = regF then flag else s.getV r :=
  completes_of_complete hexec (onlyChanges_v s _) fun r => s.getV_flagThenSet x r b flag

/-- The same as numbers, `n` being VX's new value and `m` VF's. -/
theorem completes_toNat_of_flagThenSet {n m : Nat} (hexec : exec i s = complete (s.flagThenSet x b flag))
    (hb : b.toNat = n) (hflag : flag.toNat = m) :
    completes i s [.v] fun t => ∀ r, (t.getV r).toNat = if r = x then n else if r = regF then m else (s.getV r).toNat :=
  (completes_flagThenSet hexec).imp fun t ht r => by
    rw [ht r, apply_ite BitVec.toNat, apply_ite BitVec.toNat, hb, hflag]

/-- A truth value as VF holds it is 1 or 0 (R32). -/
theorem flagOf_toNat (p : Bool) : (flagOf p).toNat = if p then 1 else 0 := by
  cases p <;> rfl

theorem flagOf_decide (p : Prop) [Decidable p] : flagOf (decide p) = if p then 1 else 0 := by
  by_cases h : p <;> simp [flagOf, h]

theorem carryFlag_toNat (a b : Byte) : (carryFlag a b).toNat = if a.toNat + b.toNat > 255 then 1 else 0 := by
  simp [carryFlag, flagOf_toNat]

theorem notBorrowFlag_toNat (a b : Byte) : (notBorrowFlag a b).toNat = if a.toNat ≥ b.toNat then 1 else 0 := by
  simp [notBorrowFlag, flagOf_toNat]

/-- Bit 0 is the remainder by 2 (R178). -/
theorem lowBitFlag_toNat (a : Byte) : (lowBitFlag a).toNat = a.toNat % 2 := by
  rw [lowBitFlag, flagOf_toNat, BitVec.getLsbD, Nat.testBit_zero]
  rcases Nat.mod_two_eq_zero_or_one a.toNat with h | h <;> simp [h]

/-- Bit 7 is the quotient by 128 (R180). -/
theorem highBitFlag_toNat (a : Byte) : (highBitFlag a).toNat = a.toNat / 128 := by
  have ha := a.isLt
  rw [highBitFlag, flagOf_toNat, BitVec.getLsbD, Nat.testBit_eq_decide_div_mod_eq]
  split <;> simp_all <;> omega

/-- A difference of bytes is the difference modulo 256 (R177, R179). -/
theorem sub_toNat_int (a b : Byte) : ((a - b).toNat : Int) = ((a.toNat : Int) - b.toNat) % 256 := by
  have ha := a.isLt
  have hb := b.isLt
  rw [BitVec.toNat_sub]
  omega

/-- Settles O23: 8XY4 writes the carry and then the sum. -/
theorem addSetsCarry : Obligations.AddSetsCarry := by
  intro s x y
  exact completes_toNat_of_flagThenSet rfl (BitVec.toNat_add ..) (carryFlag_toNat _ _)

/-- A subtraction, with the not-borrow flag (R177, R179). -/
theorem completes_sub {a c : Byte} (hexec : exec i s = complete (s.flagThenSet x (a - c) (notBorrowFlag a c))) :
    completes i s [.v] fun t => ∀ r, ((t.getV r).toNat : Int) =
      if r = x then ((a.toNat : Int) - c.toNat) % 256
      else if r = regF then (if a.toNat ≥ c.toNat then 1 else 0)
      else (s.getV r).toNat :=
  (completes_toNat_of_flagThenSet hexec rfl (notBorrowFlag_toNat a c)).imp fun t ht r => by
    rw [ht r, ← sub_toNat_int]
    split_ifs <;> rfl

/-- Settles O24: 8XY5 and 8XY7 are one subtraction with its operands exchanged. -/
theorem subtractSetsNotBorrow : Obligations.SubtractSetsNotBorrow :=
  fun _ _ _ => ⟨completes_sub rfl, completes_sub rfl⟩

/-- Settles O25: a shift by one halves or doubles, and the bit shifted out is the remainder or the quotient. -/
theorem shiftsTakeTheBitOut : Obligations.ShiftsTakeTheBitOut := by
  intro s x y
  refine ⟨completes_toNat_of_flagThenSet rfl ?right (lowBitFlag_toNat _),
    completes_toNat_of_flagThenSet rfl ?left (highBitFlag_toNat _)⟩
  case right => rw [BitVec.toNat_ushiftRight, Nat.shiftRight_eq_div_pow, pow_one]
  case left => rw [BitVec.toNat_shiftLeft, Nat.shiftLeft_eq, pow_one]

/-! ### Operands that are VF -/

theorem completes.post_of_exec {ps : List Piece} {P : State → Prop} (h : completes i s ps P)
    (hexec : exec i s = .next t) : P t := by
  obtain ⟨u, hu, -, hP, -⟩ := h
  cases hu.symm.trans hexec
  exact hP

/-- Registers after an instruction that writes VX alone. -/
theorem getV_of_setV (hexec : exec i s = complete (s.setV x b)) (h : exec i s = .next t) (r : Reg) :
    t.getV r = if r = x then b else s.getV r :=
  (completes_setV hexec).post_of_exec h r

/-- Registers after an instruction that writes VX and then VF. -/
theorem getV_of_setThenFlag (hexec : exec i s = complete (s.setThenFlag x b flag)) (h : exec i s = .next t) (r : Reg) :
    t.getV r = if r = regF then flag else if r = x then b else s.getV r :=
  (completes_setThenFlag hexec).post_of_exec h r

/-- Registers after an instruction that writes VF and then VX. -/
theorem getV_of_flagThenSet (hexec : exec i s = complete (s.flagThenSet x b flag)) (h : exec i s = .next t) (r : Reg) :
    t.getV r = if r = x then b else if r = regF then flag else s.getV r :=
  (completes_flagThenSet hexec).post_of_exec h r

/-- X = F: the result of 8XY4 to 8XYE stands in VF (R183). -/
theorem getV_regF_of_flagThenSet (hexec : exec i s = complete (s.flagThenSet regF b flag)) (h : exec i s = .next t) :
    t.getV regF = b :=
  (getV_of_flagThenSet hexec h regF).trans (if_pos rfl)

/-- 8XY1 to 8XY3 leave their flag in VF whatever X is (R183). -/
theorem getV_regF_of_setThenFlag (hexec : exec i s = complete (s.setThenFlag x b flag)) (h : exec i s = .next t) :
    t.getV regF = flag :=
  (getV_of_setThenFlag hexec h regF).trans (if_pos rfl)

/-- X other than F: 8XY1 to 8XY3 leave the result in VX and the flag in VF. -/
theorem getV_pair_of_setThenFlag (hx : x ≠ regF) (hexec : exec i s = complete (s.setThenFlag x b flag))
    (h : exec i s = .next t) : t.getV x = b ∧ t.getV regF = flag :=
  ⟨(getV_of_setThenFlag hexec h x).trans ((if_neg hx).trans (if_pos rfl)), getV_regF_of_setThenFlag hexec h⟩

/-- X other than F: 8XY4 to 8XYE leave the result in VX and the flag in VF. -/
theorem getV_pair_of_flagThenSet (hx : x ≠ regF) (hexec : exec i s = complete (s.flagThenSet x b flag))
    (h : exec i s = .next t) : t.getV x = b ∧ t.getV regF = flag :=
  ⟨(getV_of_flagThenSet hexec h x).trans (if_pos rfl),
    (getV_of_flagThenSet hexec h regF).trans ((if_neg hx.symm).trans (if_pos rfl))⟩

/-- 8XY0 with Y = F leaves the old VF in VX and in VF. -/
theorem getV_pair_of_setV_regF (hexec : exec i s = complete (s.setV x (s.getV regF))) (h : exec i s = .next t) :
    t.getV x = s.getV regF ∧ t.getV regF = s.getV regF :=
  ⟨(getV_of_setV hexec h x).trans (if_pos rfl), (getV_of_setV hexec h regF).trans (ite_self _)⟩

/-- The same with a flag that is 1 exactly when `p` holds. -/
theorem getV_pair_of_flagThenSet_decide {p : Prop} [Decidable p] (hx : x ≠ regF)
    (hexec : exec i s = complete (s.flagThenSet x b (flagOf (decide p)))) (h : exec i s = .next t) :
    t.getV x = b ∧ t.getV regF = if p then 1 else 0 :=
  (getV_pair_of_flagThenSet hx hexec h).imp_right fun e => e.trans (flagOf_decide p)

/-- Settles O26: of the two writes the later one stands where X = F, and both stand where X is another register. -/
theorem vFOperandOutcomes : Obligations.VFOperandOutcomes := by
  intro s t x y hx _ a b f
  exact
    ⟨-- X = F: 8XY0, 8XY1 to 8XY3, 8XY4 to 8XYE
      fun h => (getV_of_setV rfl h regF).trans (if_pos rfl),
      getV_regF_of_setThenFlag rfl, getV_regF_of_setThenFlag rfl, getV_regF_of_setThenFlag rfl,
      getV_regF_of_flagThenSet rfl, getV_regF_of_flagThenSet rfl, getV_regF_of_flagThenSet rfl,
      getV_regF_of_flagThenSet rfl, getV_regF_of_flagThenSet rfl,
      -- Y = F
      getV_pair_of_setV_regF rfl,
      getV_pair_of_setThenFlag hx rfl, getV_pair_of_setThenFlag hx rfl, getV_pair_of_setThenFlag hx rfl,
      getV_pair_of_flagThenSet_decide hx rfl, getV_pair_of_flagThenSet_decide hx rfl,
      getV_pair_of_flagThenSet hx rfl, getV_pair_of_flagThenSet_decide hx rfl, getV_pair_of_flagThenSet hx rfl,
      -- X = F and Y = F
      fun h => (getV_pair_of_setV_regF rfl h).1,
      getV_regF_of_setThenFlag rfl, getV_regF_of_setThenFlag rfl, getV_regF_of_setThenFlag rfl,
      fun h => by rw [getV_regF_of_flagThenSet rfl h, BitVec.toNat_add, ← Nat.two_mul],
      fun h => (getV_regF_of_flagThenSet rfl h).trans (BitVec.sub_self _),
      getV_regF_of_flagThenSet rfl,
      fun h => (getV_regF_of_flagThenSet rfl h).trans (BitVec.sub_self _),
      getV_regF_of_flagThenSet rfl⟩

/-! ### CXNN, FX1E and FX29 -/

/-- Settles O27: the draw is taken and counted before the masked byte is written. -/
theorem randomIsAMaskedDraw : Obligations.RandomIsAMaskedDraw := by
  intro s x nn
  refine completes_of_complete rfl (((onlyChanges_draws s _).append (onlyChanges_v _ _)).mono (by simp))
    ⟨fun r => s.draw.2.getV_setV x r _, ?masked, rfl⟩
  case masked =>
    have hx : (s.draw.2.setV x (s.draw.1 &&& nn)).getV x = s.draw.1 &&& nn := State.getV_setV_same ..
    show (s.draw.2.setV x (s.draw.1 &&& nn)).getV x &&& ~~~nn = 0
    rw [hx, BitVec.and_assoc, BitVec.and_not_self]
    exact BitVec.and_zero

/-- Settles O29: the flag is of the exact sum, and I keeps it modulo 2^16. -/
theorem addToIndexFlagsRange : Obligations.AddToIndexFlagsRange := by
  intro s x
  refine completes_of_complete rfl (onlyChanges_v_i s _ _) ⟨fun r hr => ?others, ?flag, BitVec.toNat_ofNat _ _⟩
  case others => exact (s.getV_setV regF r _).trans (if_neg hr)
  case flag => exact (s.getV_setV_same regF _).trans (flagOf_decide _)

/-- Settles O30: the glyph's address is below 5 * 255 + 0x1B0, so it is not reduced. -/
theorem glyphAddressInMemory : Obligations.GlyphAddressInMemory := by
  intro s x
  have haddr : (s.glyphAddr (s.getV x)).toNat = (5 * (s.getV x).toNat + s.cfg.fontBase) % 65536 :=
    BitVec.toNat_ofNat ..
  refine completes_of_complete rfl (onlyChanges_i s _) ⟨haddr, fun hvalid => ?_⟩
  have hx := (s.getV x).isLt
  show (s.glyphAddr (s.getV x)).toNat = _ ∧ (s.glyphAddr (s.getV x)).toNat ≤ _
  rw [Config.valid] at hvalid
  rw [haddr, Nat.mod_eq_of_lt (by omega)]
  omega

/-! ### FX65 -/

/-- A register after a block is loaded: its byte of the block, or what it was (R205). -/
theorem State.getV_loadV (s : State) (bs : List Byte) (r : Reg) :
    (s.loadV bs).getV r = if h : r.toNat < bs.length then bs[r.toNat] else s.getV r := by
  rw [State.getV, State.getV]
  simp only [State.loadV_v, fillV_getElem, Nat.zero_le, true_and, Nat.zero_add, Nat.sub_zero]

/-- The registers FX65 loads are the bytes from I up (R205). -/
theorem State.getV_loadV_readBytes (s : State) (x r : Reg) :
    (s.loadV (Memory.readBytes s.cfg s.mem s.addrI (blockSize x))).getV r =
      if r.toNat ≤ x.toNat then s.byteAt (s.i.toNat + r.toNat) else s.getV r := by
  rw [State.getV_loadV]
  by_cases hr : r.toNat ≤ x.toNat
  · have hlt : r.toNat < blockSize x := Nat.lt_succ_of_le hr
    rw [dif_pos (by simpa using hlt), if_pos hr]
    exact Memory.readBytes_getElem s.cfg s.mem _ _ _ hlt
  · rw [dif_neg (by simpa [blockSize, Nat.lt_succ_iff] using hr), if_neg hr]

theorem State.memRead_of_le {a n : Nat} (h : n = 0 ∨ a + n ≤ memSize) :
    s.memRead a n = .ok (Memory.readBytes s.cfg s.mem a n) :=
  (s.memRead_cases a n).elim And.right fun ⟨⟨hn, hgt⟩, _⟩ => absurd (h.resolve_left hn) hgt.not_ge

theorem State.memRead_of_gt {a n : Nat} (hn : n ≠ 0) (h : a + n > memSize) :
    s.memRead a n = .error (.outOfBoundsAccess .memory (max a memSize)) :=
  (s.memRead_cases a n).elim (fun ⟨hok, _⟩ => absurd h (hok.resolve_left hn).not_gt) And.right

theorem exec_FX65_of_le (x : Reg) (h : s.i.toNat + x.toNat ≤ 0x0FFF) :
    exec (.opFX65 x) s =
      complete { s.loadV (Memory.readBytes s.cfg s.mem s.addrI (blockSize x)) with i := s.iPastBlock x } := by
  have hread : s.memRead s.addrI (blockSize x) = .ok (Memory.readBytes s.cfg s.mem s.addrI (blockSize x)) :=
    State.memRead_of_le (.inr (Nat.succ_le_succ h))
  simp only [exec, execFX65, hread, Except.map, finish]

theorem exec_FX65_of_gt (x : Reg) (h : s.i.toNat + x.toNat > 0x0FFF) :
    exec (.opFX65 x) s = raise (.outOfBoundsAccess .memory (max s.i.toNat 0x1000)) (encode (.opFX65 x)) s := by
  have hread : s.memRead s.addrI (blockSize x) = .error (.outOfBoundsAccess .memory (max s.i.toNat 0x1000)) :=
    State.memRead_of_gt (Nat.succ_ne_zero _) (Nat.succ_lt_succ h)
  simp only [exec, execFX65, hread, Except.map, finish]

/-- Settles O33: the read of the block is checked as a whole, and register `k` takes its byte `k`. -/
theorem loadsRegisterBlock : Obligations.LoadsRegisterBlock := by
  refine ⟨fun s x h => ?loads, fun s x h => raises_of_raise (exec_FX65_of_gt x h)⟩
  case loads =>
    exact completes_of_complete (exec_FX65_of_le x h) (onlyChanges_v_i s _ _)
      ⟨s.getV_loadV_readBytes x, s.iPastBlock_toNat x h⟩

/-- Settles O34: the block stored is what FX65 reads back, and both leave I past it. -/
theorem storeThenLoadRestores : Obligations.StoreThenLoadRestores := by
  intro s t u w x hs h hstore hcfg hmem hi hload
  obtain ⟨-, hstores, -⟩ := storesRegisterBlock
  obtain ⟨hbytes, -, hit⟩ := (hstores s x hs h).post_of_exec hstore
  obtain ⟨hregs, hiw⟩ := (loadsRegisterBlock.1 u x (hi ▸ h)).post_of_exec hload
  have hbyteAt (a : Nat) : u.byteAt a = t.byteAt a := by rw [State.byteAt, hcfg, hmem, State.byteAt]
  refine ⟨BitVec.eq_of_toNat_eq (hiw.trans (hi ▸ hit.symm)), fun r hr => ?_⟩
  rw [hregs r, if_pos hr, hbyteAt, hi, hbytes r hr]

/-- Settles O35: the bytes stored from I are the bytes at the advanced PC, and the first two are V0 and V1. -/
theorem storeChangesTheNextFetch : Obligations.StoreChangesTheNextFetch := by
  intro s x hs hfetch hx hi hbound
  have hstep := step_of_fetch hfetch (decodeWord_encode rfl)
  obtain ⟨-, hstores, -⟩ := storesRegisterBlock
  have hbegin : (beginStep s).advance.Inv := beginStep_inv hs
  obtain ⟨t, hexec, -, ⟨hbytes, -, -⟩, hframe⟩ := hstores (beginStep s).advance x hbegin (by simpa using hbound)
  have hpcu : t.pc = (beginStep s).advance.pc := hframe .pc (by simp)
  have hpc : t.pc = s.i := by rw [hpcu, State.advance_pc, beginStep_pc, hi]
  refine ⟨t, hstep.trans hexec, hpc, ?_⟩
  have h0 : t.byteAt s.i.toNat = s.getV 0 := by simpa using hbytes 0 (Nat.zero_le _)
  have h1 : t.byteAt (s.i.toNat + 1) = s.getV 1 := by simpa using hbytes 1 hx
  rw [fetchWord_of_le (by rw [hpc]; omega), hpc, h0, h1]

/-! ### The last column of R34 -/

/-- An effect leaves every register that the table of R34 does not name for the instruction. -/
theorem effect_getV (h : effect i s = .ok u) {r : Reg} (hr : mayWriteReg i r = false) : u.getV r = s.getV r := by
  cases i with
  | op6XNN | op7XNN | op8XY0 | opCXNN | opFX07 =>
    cases h
    exact (State.getV_setV ..).trans (if_neg (by simpa [mayWriteReg] using hr))
  | op8XY1 | op8XY2 | op8XY3 =>
    cases h
    obtain ⟨hx, hF⟩ : ¬ r = _ ∧ ¬ r = regF := by simpa [mayWriteReg] using hr
    exact (State.getV_setThenFlag ..).trans ((if_neg hF).trans (if_neg hx))
  | op8XY4 | op8XY5 | op8XY6 | op8XY7 | op8XYE =>
    cases h
    obtain ⟨hx, hF⟩ : ¬ r = _ ∧ ¬ r = regF := by simpa [mayWriteReg] using hr
    exact (State.getV_flagThenSet ..).trans ((if_neg hx).trans (if_neg hF))
  | opDXYN =>
    obtain ⟨rows, -, rfl⟩ := Except.map_eq_ok h
    exact (s.getV_setV regF r _).trans (if_neg (by simpa [mayWriteReg] using hr))
  | opFX0A x =>
    cases h
    cases s.lowestKey with
    | some k => exact (s.getV_setV x r _).trans (if_neg (by simpa [mayWriteReg] using hr))
    | none => rfl
  | opFX1E =>
    cases h
    exact (s.getV_setV regF r _).trans (if_neg (by simpa [mayWriteReg] using hr))
  | opFX65 x =>
    obtain ⟨bs, hbs, rfl⟩ := Except.map_eq_ok h
    rcases s.memRead_cases s.addrI (blockSize x) with ⟨-, e⟩ | ⟨-, e⟩ <;> cases e.symm.trans hbs
    exact (s.getV_loadV_readBytes x r).trans (if_neg (by simpa [mayWriteReg] using hr))
  | _ => exact State.getV_congr (onlyChanges_effect h .v (by simp [mayWrite])) r

/-- Settles O49: an instruction writes its effect's registers, or none. -/
theorem everyInstructionKeepsOtherRegisters : Obligations.EveryInstructionKeepsOtherRegisters := by
  intro i s t h r hr
  obtain ⟨u, _, _, hu | rfl, rfl⟩ := exec_writes h
  · exact effect_getV hu hr
  · rfl

end Sys2Proof.Machine
end

section
/-! PROOFS. The keypad, the timer registers and the wait for a key (R240 to R248), 0NNN and BNNN (R151, R154), and a
call followed by its return (R150, R153). -/

namespace Sys2Proof.Machine

variable {s t : State}

/-! ### Key skips -/

theorem State.keyAt_of_lt {k : Byte} (h : k.toNat < 16) : s.keyAt k = .ok s.key[k.toNat] := dif_pos h

theorem State.keyAt_of_gt {k : Byte} (h : k.toNat > 0x0F) :
    s.keyAt k = .error (.outOfBoundsAccess .keypad k.toNat) := dif_neg (by omega)

/-- Settles O40: the key a register names is looked up before the skip, and above 15 there is none. -/
theorem keySkips : Obligations.KeySkips := by
  refine fun s x => ⟨fun h => ⟨?pressed, ?released⟩, fun h => ⟨raises_of_raise ?faultE, raises_of_raise ?faultA⟩⟩
  case pressed =>
    have hexec : exec (.opEX9E x) s = complete (s.skipIf s.key[(s.getV x).toNat]) := by
      simp only [exec, execEX9E, State.keyAt_of_lt h, Except.map, finish]
    exact completes_of_complete hexec (onlyChanges_pc s _) rfl
  case released =>
    have hexec : exec (.opEXA1 x) s = complete (s.skipIf !s.key[(s.getV x).toNat]) := by
      simp only [exec, execEXA1, State.keyAt_of_lt h, Except.map, finish]
    refine completes_of_complete hexec (onlyChanges_pc s _) ?_
    cases s.key[(s.getV x).toNat] <;> rfl
  case faultE => simp only [exec, execEX9E, State.keyAt_of_gt h, Except.map, finish]
  case faultA => simp only [exec, execEXA1, State.keyAt_of_gt h, Except.map, finish]

/-! ### Timer registers -/

/-- Settles O41: each is one write. -/
theorem delayTimerMoves : Obligations.DelayTimerMoves :=
  fun s x => ⟨completes_setV rfl,
    completes_of_complete rfl (((onlyChanges_dt_st s _ s.st).mono (qs := [.st, .dt]) (by simp)).of_cons rfl) rfl⟩

/-- Settles O42: one write, and the port reads ST. -/
theorem soundTimerIsSet : Obligations.SoundTimerIsSet :=
  ⟨fun x => decodeWord_encode (i := .opFX18 x) rfl,
    fun s _ => completes_of_complete rfl ((onlyChanges_dt_st s s.dt _).of_cons rfl) ⟨rfl, rfl⟩⟩

/-! ### The wait for a key -/

theorem key_getD (key : Vector Bool 16) {k : Nat} (h : k < 16) : key.getD k false = key[k] := by
  simp [Vector.getD, h]

/-- The lowest pressed key (R244, R245). -/
theorem State.lowestKey_eq_some {k : Nat} (hk : k < 16) (hpressed : s.key[k] = true)
    (hbelow : ∀ q (hq : q < k), s.key[q] = false) : s.lowestKey = some k := by
  have hkD : s.key.getD k false = true := (key_getD s.key hk).trans hpressed
  rcases lowestFrom_cases s.key 0 16 with ⟨j, e, -, hj, hjD, hmin⟩ | ⟨-, hnone⟩
  · have hjk : j = k := by
      rcases Nat.lt_trichotomy j k with hlt | heq | hgt
      · have hjF := (key_getD s.key (by omega)).trans (hbelow j hlt)
        exact absurd (hjD.symm.trans hjF) (by decide)
      · exact heq
      · exact absurd (hkD.symm.trans (hmin k (Nat.zero_le _) hgt)) (by decide)
    exact hjk ▸ e
  · exact absurd (hkD.symm.trans (hnone k (Nat.zero_le _) (by omega))) (by decide)

theorem State.lowestKey_eq_none (h : ∀ k (h : k < 16), s.key[k] = false) : s.lowestKey = none := by
  rcases lowestFrom_cases s.key 0 16 with ⟨j, -, -, hj, hjD, -⟩ | ⟨e, -⟩
  · have hjF := (key_getD s.key (by omega)).trans (h j (by omega))
    exact absurd (hjD.symm.trans hjF) (by decide)
  · exact e

theorem exec_FX0A_of_key {k : Nat} (x : Reg) (h : s.lowestKey = some k) :
    exec (.opFX0A x) s = complete { s.setV x (BitVec.ofNat 8 k) with wait := .notWaiting } := by
  rw [exec_FX0A, h, State.takeKey]

theorem exec_FX0A_of_none (x : Reg) (h : s.lowestKey = none) :
    exec (.opFX0A x) s = complete { s.rewind with wait := .waiting } := by
  rw [exec_FX0A, h, State.takeKey]

/-- Settles O43: the search answers the lowest pressed key, or that there is none. -/
theorem waitTakesLowestKey : Obligations.WaitTakesLowestKey := by
  refine ⟨fun s x k hk hpressed hbelow => ?takes, fun s x hnone => ?waits⟩
  case takes =>
    exact completes_of_complete (exec_FX0A_of_key x (State.lowestKey_eq_some hk hpressed hbelow))
      ((onlyChanges_v s _).append (onlyChanges_wait _ _)) ⟨rfl, fun r => s.getV_setV x r _⟩
  case waits =>
    exact completes_of_complete (exec_FX0A_of_none x (State.lowestKey_eq_none hnone))
      ((onlyChanges_pc s _).append (onlyChanges_wait _ _)) ⟨rfl, rfl⟩

/-- Nothing has changed from `s` to `t` but what a waiting FX0A and its steps change (R246). -/
def waitsSince (s t : State) : Prop := onlyChanges [.wait, .dt, .st, .result, .loadOpen] s t

theorem waitsSince.fetchWord (h : waitsSince s t) : fetchWord t = fetchWord s :=
  fetchWord_congr (h .pc (by simp)) (h .mem (by simp))

theorem waitsSince.key (h : waitsSince s t) : t.key = s.key := h .key (by simp)

/-- A step of FX0A with no key pressed waits at the same instruction. -/
theorem step_FX0A_of_none {x : Reg} (hfetch : fetchWord s = .ok (encode (.opFX0A x)))
    (hnone : ∀ k (h : k < 16), s.key[k] = false) : ∃ t, step s = .next t ∧ t.wait = .waiting ∧ waitsSince s t := by
  have hstep := step_of_fetch hfetch (decodeWord_encode rfl)
  obtain ⟨t, hexec, -, ⟨hwait, hpc⟩, hframe⟩ := waitTakesLowestKey.2 (beginStep s).advance x (by simpa using hnone)
  have hpcs : t.pc = s.pc := by
    rw [hpc, State.advance_pc, beginStep_pc, BitVec.add_sub_cancel]
  have hall : onlyChanges [.pc, .wait, .dt, .st, .result, .loadOpen] s t :=
    ((onlyChanges_advance s).append hframe).mono (by simp)
  exact ⟨t, hstep.trans hexec, hwait, hall.of_cons hpcs⟩

/-- A step of FX0A whose lowest pressed key is `k` takes it and goes on. -/
theorem step_FX0A_of_key {x : Reg} {k : Nat} (hfetch : fetchWord s = .ok (encode (.opFX0A x))) (hk : k < 16)
    (hpressed : s.key[k] = true) (hbelow : ∀ q (hq : q < k), s.key[q] = false) :
    ∃ t, step s = .next t ∧ t.pc = s.pc + 2 ∧ t.wait = .notWaiting ∧ t.getV x = BitVec.ofNat 8 k := by
  have hstep := step_of_fetch hfetch (decodeWord_encode rfl)
  obtain ⟨t, hexec, -, ⟨hwait, hregs⟩, hframe⟩ :=
    waitTakesLowestKey.1 (beginStep s).advance x k hk (by simpa using hpressed) (by simpa using hbelow)
  have hpc : t.pc = (beginStep s).advance.pc := hframe .pc (by simp)
  refine ⟨t, hstep.trans hexec, ?_, hwait, (hregs x).trans (if_pos rfl)⟩
  rw [hpc, State.advance_pc, beginStep_pc]

/-- Where FX0A waits, the host's press of key `k` and one step take it and go on (R246). -/
theorem runCalls_setKey_step {x : Reg} {k : Nat} (hfetch : fetchWord s = .ok (encode (.opFX0A x)))
    (hnone : ∀ q (h : q < 16), s.key[q] = false) (hk : k < 16) :
    (runCalls s [.setKey k true, .step]).pc = s.pc + 2 ∧
    (runCalls s [.setKey k true, .step]).wait = .notWaiting ∧
    (runCalls s [.setKey k true, .step]).getV x = BitVec.ofNat 8 k := by
  have hpress := portSetKey_of_lt hk true s
  have hframe := onlyChanges_key s (s.key.set k true)
  have hbelow (q : Nat) (hq : q < k) : (s.key.set k true)[q] = false := by
    rw [Vector.getElem_set_ne _ _ (Nat.ne_of_gt hq)]
    exact hnone q _
  obtain ⟨t, hstep, ht⟩ := step_FX0A_of_key (s := { s with key := s.key.set k true })
    ((fetchWord_congr (hframe .pc (by simp)) (hframe .mem (by simp))).trans hfetch) hk (by simp) hbelow
  rw [runCalls_cons_next (c := .setKey k true) hpress, runCalls_cons_next (c := .step) hstep]
  exact ht

/-- Settles O44, by induction over the steps that wait; then the pressed key is the only one, so the lowest. -/
theorem waitHoldsUntilAKey : Obligations.WaitHoldsUntilAKey := by
  intro s x n k hfetch hnone hk
  have hwaits (t : State) (h : waitsSince s t) : ∃ u, step t = .next u ∧ u.wait = .waiting ∧ waitsSince s u := by
    obtain ⟨u, hstep, hwait, hframe⟩ := step_FX0A_of_none (h.fetchWord.trans hfetch) (by simpa [h.key] using hnone)
    exact ⟨u, hstep, hwait, h.trans hframe⟩
  have hframe : waitsSince s (runSteps n s) :=
    runSteps_induction (fun t ht => (hwaits t ht).imp fun _ h => ⟨h.1, h.2.2⟩) n (.refl s _)
  refine ⟨hframe, fun hn => ?waiting, ?goesOn⟩
  case waiting =>
    obtain ⟨m, rfl⟩ := Nat.exists_eq_succ_of_ne_zero hn
    obtain ⟨t, hstep, ht⟩ := hwaits s (.refl s _)
    rw [Nat.succ_eq_add_one, runSteps_succ m hstep]
    exact (runSteps_induction (fun u hu => hwaits u hu.2) m ht).1
  case goesOn =>
    have hpc : (runSteps n s).pc = s.pc := hframe .pc (by simp)
    rw [← hpc]
    exact runCalls_setKey_step (hframe.fetchWord.trans hfetch) (by simpa [hframe.key] using hnone) hk

/-! ### 0NNN, BNNN, and a call with its return -/

/-- Settles O14: the report writes the result alone. -/
theorem legacyCallReports : Obligations.LegacyCallReports :=
  fun s _ => ⟨_, rfl, rfl, onlyChanges_result s _⟩

/-- Settles O17: the sum of a 12-bit and an 8-bit number fits PC. -/
theorem jumpAddsV0 : Obligations.JumpAddsV0 := by
  refine fun s nnn => completes_of_complete rfl (onlyChanges_pc s _) ?_
  exact Nat.mod_eq_of_lt (show nnn.toNat + (s.getV 0).toNat < 2 ^ 16 by omega)

/-- A step of 2NNN with room on the stack (R153). -/
theorem step_2NNN {nnn : Addr12} (hfetch : fetchWord s = .ok (encode (.op2NNN nnn))) (hroom : s.stack.length < 16) :
    ∃ t, step s = .next t ∧ t.pc.toNat = nnn.toNat ∧ t.stack = (s.pc + 2) :: s.stack ∧
      onlyChanges [.pc, .stack, .dt, .st, .result, .loadOpen] s t := by
  have hstep := step_of_fetch hfetch (decodeWord_encode rfl)
  obtain ⟨t, hexec, -, ⟨hpc, hstack⟩, hframe⟩ :=
    callPushesOrOverflows.2.1 (beginStep s).advance nnn (by simpa using hroom)
  exact ⟨t, hstep.trans hexec, hpc, by simpa using hstack, ((onlyChanges_advance s).append hframe).mono (by simp)⟩

/-- A step of 00EE with an entry on the stack (R150). -/
theorem step_00EE {w : Word} {ws : List Word} (hfetch : fetchWord s = .ok 0x00EE) (hstack : s.stack = w :: ws) :
    ∃ t, step s = .next t ∧ t.result = some .ok ∧ t.pc = w ∧ t.stack = ws ∧
      onlyChanges [.pc, .stack, .dt, .st, .result, .loadOpen] s t := by
  obtain ⟨hdecode, hpops, -⟩ := returnPopsOrUnderflows
  have hstep := step_of_fetch hfetch hdecode
  obtain ⟨t, hexec, hok, ⟨hpc, hws⟩, hframe⟩ := hpops (beginStep s).advance w ws (by simpa using hstack)
  exact ⟨t, hstep.trans hexec, hok, hpc, hws, ((onlyChanges_advance s).append hframe).mono (by simp)⟩

/-- Settles O20: the call pushes the address of the word after it, and the return at its target takes that entry. -/
theorem callThenReturnComesBack : Obligations.CallThenReturnComesBack := by
  intro s nnn hfetch hroom hnnn hhi hlo
  obtain ⟨t, hcall, hpc, hpush, hst⟩ := step_2NNN hfetch hroom
  have hmem : ∀ a, t.byteAt a = s.byteAt a := hst .mem (by simp)
  have hreturn : fetchWord t = .ok 0x00EE := by
    rw [fetchWord_of_le (hpc.symm ▸ hnnn), hpc, hmem, hmem, hhi, hlo]
    rfl
  obtain ⟨u, hret, hok, hpcu, hpop, htu⟩ := step_00EE hreturn hpush
  have hrun : runSteps 2 s = u := by
    rw [runSteps_succ 1 hcall, runSteps_succ 0 hret]
    rfl
  have hall : onlyChanges [.stack, .pc, .dt, .st, .result, .loadOpen] s u := (hst.trans htu).mono (by simp)
  rw [hrun]
  exact ⟨hpcu, hok, hall.of_cons hpop⟩

end Sys2Proof.Machine
end

section
/-! PROOFS. DXYN (R221 to R227): what touching a list of cells leaves, where no cell comes twice; the list of cells a
sprite touches, in which none does; and the draw from the two. -/

namespace Sys2Proof.Machine

/-! ### Touching a list of cells -/

section Touch
variable {p : Blit} {js : List Nat}

theorem touch_cell {j k : Nat} (hk : k < 2048) : (touch p j).1.getLsbD k = (p.1.getLsbD k ^^ decide (k = j)) := by
  by_cases h : k = j
  · subst h
    simp [touch, hk]
  · simp [touch, h, Ne.symm h]

/-- Exactly the touched cells are inverted (R221). -/
theorem foldl_touch_cell (hnodup : js.Nodup) {k : Nat} (hk : k < 2048) :
    (js.foldl touch p).1.getLsbD k = (p.1.getLsbD k ^^ decide (k ∈ js)) := by
  induction js generalizing p with
  | nil => simp
  | cons j js ih =>
    obtain ⟨hj, hnodup⟩ := List.nodup_cons.1 hnodup
    rw [List.foldl_cons, ih hnodup, touch_cell hk]
    by_cases hkj : k = j
    · simp [hkj, hj]
    · simp [hkj]

/-- The collision is that a touched cell was set before the draw (R223). -/
theorem foldl_touch_hit (hnodup : js.Nodup) (hlt : ∀ j ∈ js, j < 2048) :
    (js.foldl touch p).2 = true ↔ p.2 = true ∨ ∃ j ∈ js, p.1.getLsbD j = true := by
  induction js generalizing p with
  | nil => simp
  | cons j js ih =>
    obtain ⟨hj, hnodup⟩ := List.nodup_cons.1 hnodup
    have hother : (∃ k ∈ js, (touch p j).1.getLsbD k = true) ↔ ∃ k ∈ js, p.1.getLsbD k = true := by
      refine exists_congr fun k => and_congr_right fun hk => ?_
      have hne : k ≠ j := fun e => hj (e ▸ hk)
      rw [touch_cell (hlt k (List.mem_cons_of_mem _ hk)), decide_eq_false hne, Bool.xor_false]
    rw [List.foldl_cons, ih hnodup fun k hk => hlt k (List.mem_cons_of_mem _ hk), hother]
    simp [touch, or_assoc]

end Touch

/-! ### The cells of a sprite -/

/-- The cells one row of a sprite touches (R221, R224). -/
def rowCells (x0 y : Nat) (b : Byte) : List Nat :=
  ([0, 1, 2, 3, 4, 5, 6, 7].filter fun col => spriteBit b col).map fun col => cellIndex (x0 + col) y

/-- The cells the rows of a sprite touch from row `y` down (R221). -/
def spriteCells (x0 y : Nat) : List Byte → List Nat
  | [] => []
  | b :: bs => rowCells x0 y b ++ spriteCells x0 (y + 1) bs

theorem blitRow_eq_foldl (x0 y : Nat) (b : Byte) (p : Blit) : blitRow x0 y b p = (rowCells x0 y b).foldl touch p := by
  rw [rowCells, List.foldl_map, List.foldl_filter, blitRow]

theorem blitRows_eq_foldl (x0 y : Nat) (bs : List Byte) (p : Blit) :
    blitRows x0 y bs p = (spriteCells x0 y bs).foldl touch p := by
  induction bs generalizing y p with
  | nil => rfl
  | cons b bs ih => rw [blitRows, ih, blitRow_eq_foldl, spriteCells, List.foldl_append]

theorem mem_rowCells {x0 y j : Nat} {b : Byte} :
    j ∈ rowCells x0 y b ↔ ∃ col, col < 8 ∧ b.getLsbD (7 - col) = true ∧ j = (x0 + col + y * 64) % 2048 := by
  have hcols (col : Nat) : col ∈ [0, 1, 2, 3, 4, 5, 6, 7] ↔ col < 8 := List.mem_range (n := 8)
  simp only [rowCells, List.mem_map, List.mem_filter, hcols, spriteBit, cellIndex, dispW, dispCells, and_assoc,
    eq_comm (b := j)]

theorem mem_spriteCells {x0 y j : Nat} {bs : List Byte} :
    j ∈ spriteCells x0 y bs ↔ ∃ row col, ∃ h : row < bs.length, col < 8 ∧ bs[row].getLsbD (7 - col) = true ∧
      j = (x0 + col + (y + row) * 64) % 2048 := by
  induction bs generalizing y with
  | nil => simp [spriteCells]
  | cons b bs ih =>
    rw [spriteCells, List.mem_append, mem_rowCells, ih]
    constructor
    · rintro (⟨col, hcol, hbit, hj⟩ | ⟨row, col, hrow, hcol, hbit, hj⟩)
      · exact ⟨0, col, Nat.succ_pos _, hcol, hbit, hj⟩
      · exact ⟨row + 1, col, Nat.succ_lt_succ hrow, hcol, hbit, by rw [hj]; congr 2; omega⟩
    · rintro ⟨_ | row, col, hrow, hcol, hbit, hj⟩
      · exact .inl ⟨col, hcol, hbit, hj⟩
      · exact .inr ⟨row, col, Nat.lt_of_succ_lt_succ hrow, hcol, hbit, by rw [hj]; congr 2; omega⟩

theorem nodup_rowCells (x0 y : Nat) (b : Byte) : (rowCells x0 y b).Nodup := by
  refine List.Nodup.map_on (fun c hc d hd e => ?_) (List.Nodup.filter _ (List.nodup_range (n := 8)))
  have hc8 : c < 8 := List.mem_range.1 (List.mem_of_mem_filter hc)
  have hd8 : d < 8 := List.mem_range.1 (List.mem_of_mem_filter hd)
  simp only [cellIndex, dispW, dispCells] at e
  omega

/-- A row is 8 cells of 64 and a sprite fewer rows than the display, so no cell is touched twice (R222). -/
theorem nodup_spriteCells (x0 y : Nat) {bs : List Byte} (h : bs.length ≤ 32) : (spriteCells x0 y bs).Nodup := by
  induction bs generalizing y with
  | nil => exact List.nodup_nil
  | cons b bs ih =>
    rw [List.length_cons] at h
    refine List.Nodup.append (nodup_rowCells x0 y b) (ih (y + 1) (by omega)) fun j hj hj' => ?_
    obtain ⟨col, hcol, -, e⟩ := mem_rowCells.1 hj
    obtain ⟨row, col', hrow, hcol', -, e'⟩ := mem_spriteCells.1 hj'
    omega

theorem lt_of_mem_spriteCells {x0 y j : Nat} {bs : List Byte} (h : j ∈ spriteCells x0 y bs) : j < 2048 := by
  obtain ⟨_, _, _, _, _, rfl⟩ := mem_spriteCells.1 h
  exact Nat.mod_lt _ (by decide)

/-! ### The draw -/

section Draw
variable {s t : State} {x y : Reg} {n : Nibble} {j : Nat}

/-- The sprite's bytes (R221). -/
def State.sprite (s : State) (n : Nibble) : List Byte := Memory.readBytes s.cfg s.mem s.addrI n.toNat

/-- The cells a DXYN touches. -/
def State.touched (s : State) (x y : Reg) (n : Nibble) : List Nat :=
  spriteCells (s.getV x).toNat (s.getV y).toNat (s.sprite n)

theorem State.sprite_length (s : State) (n : Nibble) : (s.sprite n).length = n.toNat := Memory.readBytes_length ..

theorem State.nodup_touched (s : State) (x y : Reg) (n : Nibble) : (s.touched x y n).Nodup :=
  nodup_spriteCells _ _ (by rw [s.sprite_length]; omega)

/-- The touched cells are the covered ones. -/
theorem State.mem_touched : j ∈ s.touched x y n ↔ s.covers x y n j := by
  have hbyte (row : Nat) (h : row < (s.sprite n).length) : (s.sprite n)[row] = s.byteAt (s.i.toNat + row) :=
    Memory.readBytes_getElem s.cfg s.mem s.addrI n.toNat row (s.sprite_length n ▸ h)
  rw [State.touched, mem_spriteCells, State.covers]
  simp only [hbyte, exists_prop, s.sprite_length, exists_and_left]

theorem State.lt_of_covers (h : s.covers x y n j) : j < 2048 := lt_of_mem_spriteCells (State.mem_touched.2 h)

/-- The framebuffer after the draw, cell by cell. -/
theorem State.blit_cell (hj : j < 2048) :
    (s.blit x y (s.sprite n)).1.getLsbD j = (s.fb.getLsbD j ^^ decide (j ∈ s.touched x y n)) := by
  rw [State.blit, blitRows_eq_foldl]
  exact foldl_touch_cell (s.nodup_touched x y n) hj

theorem State.blit_hit :
    (s.blit x y (s.sprite n)).2 = true ↔ ∃ j, s.covers x y n j ∧ s.fb.getLsbD j = true := by
  rw [State.blit, blitRows_eq_foldl]
  refine (foldl_touch_hit (s.nodup_touched x y n) fun _ => lt_of_mem_spriteCells).trans ?_
  simp only [Bool.false_eq_true, false_or]
  exact exists_congr fun k => and_congr_left' State.mem_touched

theorem exec_DXYN_of_inBounds (h : s.dataInBounds n.toNat) :
    exec (.opDXYN x y n) s = complete (s.drawRows x y (s.sprite n)) := by
  have hread : s.memRead s.addrI n.toNat = .ok (s.sprite n) := State.memRead_of_le h
  rw [exec_eq_finish (by simp), effect, hread]
  rfl

theorem exec_DXYN_of_gt (hn : n.toNat > 0) (h : s.i.toNat + n.toNat - 1 > 0x0FFF) :
    exec (.opDXYN x y n) s =
      raise (.outOfBoundsAccess .memory (max s.i.toNat 0x1000)) (encode (.opDXYN x y n)) s := by
  have hread : s.memRead s.addrI n.toNat = .error (.outOfBoundsAccess .memory (max s.i.toNat 0x1000)) :=
    State.memRead_of_gt (Nat.ne_of_gt hn) (show s.i.toNat + n.toNat > 4096 by omega)
  rw [exec_eq_finish (by simp), effect, hread]
  rfl

/-- VF after the draw, as the collision says (R223). -/
theorem State.getV_regF_drawRows (rows : List Byte) :
    (s.drawRows x y rows).getV regF = collisionFlag (s.blit x y rows).2 :=
  s.getV_setV_same regF _

theorem State.getV_drawRows {r : Reg} (hr : r ≠ regF) (rows : List Byte) :
    (s.drawRows x y rows).getV r = s.getV r :=
  (s.getV_setV regF r _).trans (if_neg hr)

/-- Settles O37: the rows of the sprite touch the covered cells, each once. -/
theorem drawInvertsCoveredCells : Obligations.DrawInvertsCoveredCells := by
  intro s x y n h
  refine completes_of_complete (exec_DXYN_of_inBounds h) (onlyChanges_drawRows s x y _)
    ⟨fun j hj hc => ?inverted, fun j hj hc => ?kept, fun hset => ?hit, fun hclear => ?noHit,
      fun r hr => s.getV_drawRows hr _, rfl⟩
  case inverted =>
    exact (State.blit_cell hj).trans (by rw [decide_eq_true (State.mem_touched.2 hc), Bool.xor_true])
  case kept =>
    exact (State.blit_cell hj).trans (by rw [decide_eq_false (mt State.mem_touched.1 hc), Bool.xor_false])
  case hit =>
    refine (s.getV_regF_drawRows _).trans ?_
    rw [State.blit_hit.2 hset]
    rfl
  case noHit =>
    have hnone : (s.blit x y (s.sprite n)).2 = false := by
      rw [← Bool.not_eq_true, State.blit_hit]
      rintro ⟨j, hc, hj⟩
      exact absurd (hj.symm.trans (hclear j hc)) (by decide)
    refine (s.getV_regF_drawRows _).trans ?_
    rw [hnone]
    rfl

/-- States with the same VX, VY, I and bytes cover the same cells. -/
theorem State.covers_congr (hx : t.getV x = s.getV x) (hy : t.getV y = s.getV y) (hi : t.i = s.i)
    (hmem : ∀ a, t.byteAt a = s.byteAt a) : t.covers x y n j ↔ s.covers x y n j := by
  simp only [State.covers, hx, hy, hi, hmem]

/-- Settles O38: the first draw leaves VX, VY, I and memory, so the second covers the same cells and inverts them
back. -/
theorem drawTwiceRestores : Obligations.DrawTwiceRestores := by
  intro s t u x y n hx hy h hfirst hsecond
  obtain ⟨t', ht', -, ⟨hinv, hkeep, -, -, hregs, -⟩, hframe⟩ := drawInvertsCoveredCells s x y n h
  cases ht'.symm.trans hfirst
  have hi : t.i = s.i := hframe .i (by simp)
  have hcovers (j : Nat) : t.covers x y n j ↔ s.covers x y n j :=
    State.covers_congr (hregs x hx) (hregs y hy) hi (hframe .mem (by simp))
  have ht : t.dataInBounds n.toNat := by rwa [State.dataInBounds, hi]
  obtain ⟨hinv2, hkeep2, hhit2, hnoHit2, -, hredraw⟩ := (drawInvertsCoveredCells t x y n ht).post_of_exec hsecond
  simp only [hcovers] at hinv2 hkeep2 hhit2 hnoHit2
  refine ⟨BitVec.eq_of_getLsbD_eq fun j hj => ?cell, hredraw, fun ⟨j, hc, hj⟩ => ?hit, fun hset => ?noHit⟩
  case cell =>
    by_cases hc : s.covers x y n j
    · rw [hinv2 j hj hc, hinv j hj hc, Bool.not_not]
    · rw [hkeep2 j hj hc, hkeep j hj hc]
  case hit => exact hhit2 ⟨j, hc, by rw [hinv j (State.lt_of_covers hc) hc, hj, Bool.not_false]⟩
  case noHit =>
    exact hnoHit2 fun j hc => by rw [hinv j (State.lt_of_covers hc) hc, hset j hc, Bool.not_true]

/-- Settles O39: the read of the sprite is checked as a whole, and of no byte it passes and touches no cell. -/
theorem drawOutOfBoundsAndEmpty : Obligations.DrawOutOfBoundsAndEmpty := by
  refine ⟨fun s x y n hn h => raises_of_raise (exec_DXYN_of_gt hn h), fun s x y => ?empty⟩
  case empty =>
    have hframe : onlyChanges [.v, .redraw] s (s.drawRows x y []) :=
      (onlyChanges_v s _).append ((onlyChanges_fb_redraw _ s.fb true).of_cons rfl)
    exact completes_of_complete (exec_DXYN_of_inBounds (.inl rfl)) hframe ⟨rfl, fun r => s.getV_setV regF r _⟩

end Draw

end Sys2Proof.Machine
end
